-- ==== Sys2Proof/Word.lean ====
section
/-! DEFINITION. The words of the block: bytes, code points, and the words a command is presented in. -/

namespace Sys2Proof

/-- A byte element: 8 bits, unsigned, bit 0 least significant (R62, R11). -/
abbrev Byte := BitVec 8

/-- A code-point element: `CP_W` = 21 bits, unsigned, bit 0 least significant (R63, R11). -/
abbrev CodePoint := BitVec 21

/-- The word that carries the operation select value.
R61's field has 2 bits; this interface carries it in a word of eight, so that the values R69 tells a
widened field to refuse can be presented (DESIGN CHOICE, safe: log 3). -/
abbrev OpWord := BitVec 8

/-- The word that carries one operand element whole (R40, R42): as wide as the widest element of R44.
A byte stands in it zero-extended (DESIGN CHOICE, safe: log 4). -/
abbrev ElemWord := BitVec 21

end Sys2Proof
end

