-- ==== Sys2Proof/Syntax.lean ====
section
/-! DEFINITION. The commands (the block's instructions), and the frame a command is presented in. -/

namespace Sys2Proof

/-- The four operations of R61 (the type `Op` of R11). -/
inductive Op where
  | permute
  | unpermute
  | encode
  | decode
deriving DecidableEq, Repr

/-- One command: an operation and its operand (R11, R60), one constructor per row of the opcode
table. -/
inductive Instr where
  /-- PERMUTE (R82): the operand is one byte. -/
  | permute (b : Byte)
  /-- UNPERMUTE (R86): the operand is one byte. -/
  | unpermute (c : Byte)
  /-- ENCODE (R104): the operand is a finite sequence of bytes, element 0 first. -/
  | encode (S : List Byte)
  /-- DECODE (R110): the operand is a finite sequence of code points, element 0 first. -/
  | decode (T : List CodePoint)
deriving DecidableEq, Repr

/-- The operation a command selects (R61). -/
def Instr.op : Instr → Op
  | .permute _ => .permute
  | .unpermute _ => .unpermute
  | .encode _ => .encode
  | .decode _ => .decode

/-- The number of elements a command carries (R70). -/
def Instr.length : Instr → Nat
  | .permute _ => 1
  | .unpermute _ => 1
  | .encode S => S.length
  | .decode T => T.length

/-- A command as the host presents it: the operation select value, then the elements in order (R60,
R65). The length `n` is carried by the framing and never inside the elements: it is the length of
`elems` (log 5). -/
structure Frame where
  op : OpWord
  elems : List ElemWord
deriving DecidableEq, Repr

/-- Why a frame is no command. -/
inductive FrameError where
  /-- The operation select value is none of the four of R61. Raised by `decode`: an implementation
  that widens `op` must refuse every other value (R69). Safe. -/
  | opNotAssigned (op : OpWord)
  /-- PERMUTE or UNPERMUTE with a number of elements other than one (R70). Raised by `decode`. Safe. -/
  | elementCount (n : Nat)
  /-- An element word above 255 where a byte element (R62) is due. Raised by `decode`. Safe. -/
  | notAByte
deriving DecidableEq, Repr

end Sys2Proof
end

