-- ==== Sys2Proof/Decode.lean ====
section
/-! DEFINITION. From a frame to a command and back (R60 to R70), and the host's view of the opcode
table. -/

namespace Sys2Proof

/-- The operation an operation select value names (R61); none for a value of a widened field (R69). -/
def opOfWord (w : OpWord) : Option Op :=
  match w.toNat with
  | 0 => some .permute
  | 1 => some .unpermute
  | 2 => some .encode
  | 3 => some .decode
  | _ => none

/-- The byte element an element word holds (R62); none when the value is no byte. -/
def byteOfElem (e : ElemWord) : Option Byte :=
  if e.toNat < 256 then some (e.setWidth 8) else none

/-- The byte elements a list of element words holds, in order (R65); none when one is no byte. -/
def bytesOfElems : List ElemWord → Option (List Byte)
  | [] => some []
  | e :: es =>
    match byteOfElem e, bytesOfElems es with
    | some b, some bs => some (b :: bs)
    | _, _ => none

/-- The operand of PERMUTE and UNPERMUTE: exactly one byte element (R70). -/
def decodeByteOperand : List ElemWord → Except FrameError Byte
  | [e] =>
    match byteOfElem e with
    | some b => .ok b
    | none => .error .notAByte
  | es => .error (.elementCount es.length)

/-- The decoder: total on every frame; a frame that is no command is rejected by name. -/
def decode (f : Frame) : Except FrameError Instr :=
  match opOfWord f.op with
  | some .permute => (decodeByteOperand f.elems).map Instr.permute
  | some .unpermute => (decodeByteOperand f.elems).map Instr.unpermute
  | some .encode =>
    match bytesOfElems f.elems with
    | some S => .ok (.encode S)
    | none => .error .notAByte
  | some .decode => .ok (.decode f.elems)
  | none => .error (.opNotAssigned f.op)

/-- The operation select value of an operation (R61). -/
def Op.word : Op → OpWord
  | .permute => 0b00
  | .unpermute => 0b01
  | .encode => 0b10
  | .decode => 0b11

/-- A byte element as an element word: its 8 bits, zero above (log 4). -/
def elemOfByte (b : Byte) : ElemWord := b.setWidth 21

/-- The elements of a command, in order (R65, R70). -/
def encodeElems : Instr → List ElemWord
  | .permute b => [elemOfByte b]
  | .unpermute c => [elemOfByte c]
  | .encode S => S.map elemOfByte
  | .decode T => T

/-- The encoder: the frame that presents a command. -/
def encode (i : Instr) : Frame := { op := i.op.word, elems := encodeElems i }

/-- How many elements the framing gives a command whose operand words are all zero: one for PERMUTE
and UNPERMUTE (R70); for ENCODE and DECODE the count n, a word of zeros as well, so n = 0 (log 5). -/
def zeroOperand (w : OpWord) : List ElemWord :=
  match opOfWord w with
  | some .permute => [0]
  | some .unpermute => [0]
  | _ => []

/-- The frame of an instruction of the opcode table: the table gives it the bits `op[1:0]`, in one
word; the bits above `nbits` are zero, and so is its operand. -/
def tableFrame (nbits w : Nat) : Frame :=
  let op : OpWord := BitVec.ofNat 8 (w % 2 ^ nbits)
  { op := op, elems := zeroOperand op }

/-- The instruction the decoder reads from an opcode table word. -/
def decodeTableWord (nbits w : Nat) : Option Instr :=
  match decode (tableFrame nbits w) with
  | .ok i => some i
  | .error _ => none

end Sys2Proof
end

