-- ==== Sys2Proof/Config.lean ====
section
/-! DEFINITION. What an implementation fixes (the OPEN parameters of R7) and the one free value. -/

namespace Sys2Proof

/-- `PERM_IMPL`: how the permutation is built (R89, D10). -/
inductive PermImpl where
  /-- A 256-entry constant table, `bit_permutation_lut`. -/
  | lut
  /-- Fixed wiring, `bit_permute_crossbar`. -/
  | crossbar
deriving DecidableEq, Repr

/-- The OPEN parameters of R7, which the model takes as an argument. -/
structure Params where
  /-- `MAX_SEQ_LEN`: a natural number, or `none` for unbounded (R71, D6). -/
  maxSeqLen : Option Nat
  /-- `LANES` − 1, so that every value is one the spec admits (`LANES` ≥ 1: R141, D9). -/
  extraLanes : Nat
  /-- `PERM_IMPL` (R89, D10). -/
  permImpl : PermImpl
deriving DecidableEq, Repr

/-- `LANES` (R7): at least 1. -/
def Params.lanes (p : Params) : Nat := p.extraLanes + 1

/-- Is a sequence of length `n` admitted? Exactly when `n` ≤ `MAX_SEQ_LEN` (R71). -/
def Params.admits (p : Params) (n : Nat) : Bool :=
  match p.maxSeqLen with
  | none => true
  | some m => decide (n ≤ m)

/-- The parameters at reset: `MAX_SEQ_LEN` unbounded, the spec's default (R71). The spec gives no
default for `LANES` and `PERM_IMPL`; one lane and the crossbar are a DESIGN CHOICE (log 7). -/
def Params.default : Params := { maxSeqLen := none, extraLanes := 0, permImpl := .crossbar }

/-- FREE VALUE: `d_out` of the element decoder when `d_err` = 1, unspecified and never delivered
(R67, D20; log 10). -/
opaque Config.dOutOnError : CodePoint → Byte

end Sys2Proof
end

