-- ==== Sys2Proof/Machine/State.lean ====
section
/-! DEFINITION. The state, the responses, and the reasons a step can stop. -/

namespace Sys2Proof.Machine

/-- The error kinds of the block (R130): one. -/
inductive ErrorKind where
  /-- "character outside Braille pattern block" (R130). -/
  | outsideBrailleBlock
deriving DecidableEq, Repr

/-- What a successful command delivers (R11, R61). -/
inductive Payload where
  /-- PERMUTE and UNPERMUTE deliver one byte. -/
  | byte (b : Byte)
  /-- ENCODE delivers a sequence of code points. -/
  | codePoints (cs : List CodePoint)
  /-- DECODE delivers a sequence of bytes. -/
  | bytes (bs : List Byte)
deriving DecidableEq, Repr

/-- The one response a command gets (R11, R66). An error carries its kind and nothing else (R132). -/
inductive Response where
  | ok (p : Payload)
  | err (e : ErrorKind)
deriving DecidableEq, Repr

/-- The machine state of the block, as R30 (D15) gives it: a record that holds only the queue of
commands not yet answered. The block has no register, program counter, flag, control register or memory
(R20 to R25). -/
structure Block where
  /-- The commands not yet answered, oldest first, as the host presented them (R30, R66; log 1). -/
  queue : List Frame
deriving DecidableEq, Repr

/-- The block idle (R150): what reset leaves of R30's record. -/
def Block.reset : Block := { queue := [] }

/-- What the host's interface runs: the machine state `toBlock`, which is R30's record and no more, with
the two things that are no state of the block and that a step has no other place for. A response leaves
the block (R66), and the interface hands back a state alone (log 2). R7's parameters are an argument of
the model, and the interface passes a state alone (log 7). -/
structure State extends Block where
  /-- The host's record of the responses returned, oldest first (R66). No command reads them (R28; log 2). -/
  responses : List Response
  /-- The argument of R7: constants of the build, which no step writes (log 7). -/
  params : Params
deriving DecidableEq, Repr

/-- The block has no trap (R135): no step ends in a fault. Its one error is a response (R131). -/
inductive Fault where
deriving DecidableEq, Repr

/-- The refusals of a step. -/
inductive Refusal where
  /-- An instruction that has no meaning in the model yet: raised by no arm of `exec`. Safe. -/
  | notModelled (mnemonic : String)
  /-- The frame at the head of the queue is no command (R69, R70, R62). Raised by `step`. Safe: the
  block owes no response to what is no command. -/
  | notACommand (e : FrameError)
  /-- ENCODE or DECODE with n > `MAX_SEQ_LEN`: not admitted, neither `Ok` nor `Err` (R71). Raised by
  `execEncode` and `execDecode`. Safe: no claim is made about such a command. -/
  | overLength (n : Nat)
deriving DecidableEq, Repr

/-- After reset the block is idle (R150): no command outstanding. The host has recorded no response, and
the build has its default parameters. -/
def State.reset : State := { toBlock := Block.reset, responses := [], params := Params.default }

end Sys2Proof.Machine
end

