-- ==== Sys2Proof/Machine/Operands.lean ====
section
/-! DEFINITION. The operand form of ENCODE and DECODE: an element-wise map over a sequence, done in
`LANES` parallel lanes and reassembled in input order (R50, R113, R141, R155). -/

namespace Sys2Proof.Machine

/-- What one lane delivers: the results of the elements it was dealt, each with its place in the
input. Element `i` is dealt to lane `i` mod `LANES` (DESIGN CHOICE, not observable: log 9). -/
def laneResults {α β : Type} (lanes lane : Nat) (f : α → β) (S : List α) : List (Nat × β) :=
  (S.zipIdx.filter fun p => p.2 % lanes == lane).map fun p => (p.2, f p.1)

/-- The results of all lanes, in the order the lanes complete: lane 0 first. -/
def allLaneResults {α β : Type} (lanes : Nat) (f : α → β) (S : List α) : List (Nat × β) :=
  (List.range lanes).flatMap fun lane => laneResults lanes lane f S

/-- Reassembly: from results in any order of completion, the outputs in input order (R155). -/
def reassemble {β : Type} (n : Nat) (done : List (Nat × β)) : List β :=
  (List.range n).filterMap fun i => done.lookup i

/-- The element-wise map of a sequence command (R113). -/
def laneMap {α β : Type} (lanes : Nat) (f : α → β) (S : List α) : List β :=
  reassemble S.length (allLaneResults lanes f S)

/-- The bytes of a DECODE when every element decoded, and the error when one did not, whichever
(R110, R133). -/
def wholeCall : List (Except ErrorKind Byte) → Except ErrorKind (List Byte)
  | [] => .ok []
  | .error e :: _ => .error e
  | .ok b :: rs =>
    match wholeCall rs with
    | .ok bs => .ok (b :: bs)
    | .error e => .error e

end Sys2Proof.Machine
end

