-- ==== Sys2Proof/Machine/Ops.lean ====
section
/-! DEFINITION. The shared operations: the permutation and its inverse, the element codecs, and what
happens at the host interface (responding, raising the one error, issuing, fetching, reset). -/

namespace Sys2Proof.Machine

/-- `PERM` (R80), in the form of masks and shifts: bits 0→7, 1→5, 2→4, 3→3, 4→6, 5→2, 6→1, 7→0. Not
the table printed in the source's §4.1 (90_conflicts.md C1; log 11). -/
def perm (b : Byte) : Byte :=
  ((b &&& 0x01) <<< 7) ||| ((b &&& 0x02) <<< 4) ||| ((b &&& 0x04) <<< 2) ||| (b &&& 0x08)
    ||| ((b &&& 0x10) <<< 2) ||| ((b &&& 0x20) >>> 3) ||| ((b &&& 0x40) >>> 5)
    ||| ((b &&& 0x80) >>> 7)

/-- `UNPERM` (R84), in the form of masks and shifts: bits 0→7, 1→6, 2→5, 3→3, 4→2, 5→1, 6→4, 7→0. -/
def unperm (c : Byte) : Byte :=
  ((c &&& 0x01) <<< 7) ||| ((c &&& 0x02) <<< 5) ||| ((c &&& 0x04) <<< 3) ||| (c &&& 0x08)
    ||| ((c &&& 0x10) >>> 2) ||| ((c &&& 0x20) >>> 4) ||| ((c &&& 0x40) >>> 2)
    ||| ((c &&& 0x80) >>> 7)

/-- The permutation unit as it is built: `bit_permutation_lut` or `bit_permute_crossbar` (R89). -/
def permUnit (impl : PermImpl) (b : Byte) : Byte :=
  match impl with
  | .lut => permLut.getD b.toNat 0
  | .crossbar => perm b

/-- `inverse_bit_permutation` as it is built (R89). -/
def unpermUnit (impl : PermImpl) (c : Byte) : Byte :=
  match impl with
  | .lut => unpermLut.getD c.toNat 0
  | .crossbar => unperm c

/-- `inBlock` (R101): a closed range test on all 21 bits. -/
def inBlock (c : CodePoint) : Bool := decide (blockLo ≤ c) && decide (c ≤ blockHi)

/-- `ENC1` (R102, R68): the sum of `BASE` and the zero-extended permuted byte. -/
def enc1 (impl : PermImpl) (b : Byte) : CodePoint := base + (permUnit impl b).setWidth 21

/-- `DEC1` (R106): the range test on the whole value first, then the inverse permutation of the low
eight bits of `c` − 0x2800. An out-of-block value has no byte. -/
def dec1 (impl : PermImpl) (c : CodePoint) : Except ErrorKind Byte :=
  if inBlock c then .ok (unpermUnit impl ((c - base).setWidth 8)) else .error .outsideBrailleBlock

/-- The block returns one response (R66): nothing else changes (R46). -/
def State.respond (s : State) (r : Response) : State := { s with responses := s.responses ++ [r] }

/-- `return v` of R9: the command completes with a success response. -/
def State.deliver (s : State) (p : Payload) : State := s.respond (.ok p)

/-- `raise` of R9: the command completes with the error response and nothing else is delivered
(R131). There is no trap entry: no state saved, no mode changed, no control transferred (R135); and
nothing to return from (R136). -/
def State.raise (s : State) (e : ErrorKind) : State := s.respond (.err e)

/-- The host issues a command: it waits behind those not yet answered (R66). -/
def State.issue (s : State) (f : Frame) : State := { s with queue := s.queue ++ [f] }

/-- The block takes the oldest command not yet answered (R66), if there is one. -/
def State.nextCommand (s : State) : Option (Frame × State) :=
  match s.queue with
  | [] => none
  | f :: rest => some (f, { s with queue := rest })

/-- Reset is asserted: the block's own state is set to what reset leaves, so that every command not yet
answered is abandoned and gets no response. The responses already returned stay with the host, the
constants stay (R150, R151; log 8). -/
def State.assertReset (s : State) : State := { s with toBlock := Block.reset }

end Sys2Proof.Machine
end

