-- ==== Sys2Proof/Machine/Codec.lean ====
section
/-! DEFINITION. The meanings of ENCODE and DECODE (R104, R110). -/

namespace Sys2Proof.Machine

/-- ENCODE (R104): returns the code points of the bytes, in order. A sequence longer than
`MAX_SEQ_LEN` is not admitted and is refused by name (R71). -/
def execEncode (S : List Byte) (s : State) : Host.Outcome State Fault Refusal :=
  if s.params.admits S.length then
    .next (s.deliver (.codePoints (laneMap s.params.lanes (enc1 s.params.permImpl) S)))
  else .refused (.overLength S.length)

/-- DECODE (R110): returns the bytes of the code points, in order, when every element is in the block,
and otherwise the one error with no byte at all. The length is tested before any element (R71, R134). -/
def execDecode (T : List CodePoint) (s : State) : Host.Outcome State Fault Refusal :=
  if s.params.admits T.length then
    match wholeCall (laneMap s.params.lanes (dec1 s.params.permImpl) T) with
    | .ok bs => .next (s.deliver (.bytes bs))
    | .error e => .next (s.raise e)
  else .refused (.overLength T.length)

end Sys2Proof.Machine
end

