-- ==== Sys2Proof/Machine/Permutation.lean ====
section
/-! DEFINITION. The meanings of PERMUTE and UNPERMUTE (R82, R86). -/

namespace Sys2Proof.Machine

/-- PERMUTE (R82): returns `PERM(b)`; no flag, no error. -/
def execPermute (b : Byte) (s : State) : Host.Outcome State Fault Refusal :=
  .next (s.deliver (.byte (permUnit s.params.permImpl b)))

/-- UNPERMUTE (R86): returns `UNPERM(c)`; no flag, no error. -/
def execUnpermute (c : Byte) (s : State) : Host.Outcome State Fault Refusal :=
  .next (s.deliver (.byte (unpermUnit s.params.permImpl c)))

end Sys2Proof.Machine
end

