-- ==== Sys2Proof/Machine/Dispatch.lean ====
section
/-! DEFINITION. One arm per command. -/

namespace Sys2Proof.Machine

def exec (i : Instr) (s : State) : Host.Outcome State Fault Refusal :=
  match i with
  | .permute b => Sys2Proof.Machine.execPermute b s
  | .unpermute c => Sys2Proof.Machine.execUnpermute c s
  | .encode S => Sys2Proof.Machine.execEncode S s
  | .decode T => Sys2Proof.Machine.execDecode T s

end Sys2Proof.Machine
end

