-- ==== Sys2Proof/Machine/Step.lean ====
section
/-! DEFINITION. One step: take the oldest command not yet answered and perform it. -/

namespace Sys2Proof.Machine

/-- One step. The oldest command is taken off the queue, decoded and performed as one atomic step
(R60, R66); a frame that is no command is refused by name; with no command outstanding the block is
idle and nothing changes (R150; log 6). -/
def step (s : State) : Host.Outcome State Fault Refusal :=
  match s.nextCommand with
  | none => .next s
  | some (f, s') =>
    match decode f with
    | .ok i => exec i s'
    | .error e => .refused (.notACommand e)

/-- The state with an opcode table word presented as the very next command (log 17). -/
def State.withFetchWord (s : State) (nbits w : Nat) : State :=
  { s with queue := tableFrame nbits w :: s.queue }

end Sys2Proof.Machine
end

