-- ==== Sys2Proof/Machine/Assembly.lean ====
section
/-! DEFINITION. The written form of a command (R72, D22): a reader of command text and a writer of it.
No step uses it; what it reads is a command of the block. -/

namespace Sys2Proof.Machine

/-- The mnemonic of an operation (R61). -/
def opMnemonic : Op → List Char
  | .permute => ['P', 'E', 'R', 'M', 'U', 'T', 'E']
  | .unpermute => ['U', 'N', 'P', 'E', 'R', 'M', 'U', 'T', 'E']
  | .encode => ['E', 'N', 'C', 'O', 'D', 'E']
  | .decode => ['D', 'E', 'C', 'O', 'D', 'E']

/-- The operation a mnemonic names: there are no pseudo-instructions (R72). -/
def opOfMnemonic (m : List Char) : Option Op :=
  [Op.permute, Op.unpermute, Op.encode, Op.decode].find? fun o => opMnemonic o == m

/-- The value of one digit, in either case (log 13). -/
def digitValue (c : Char) : Option Nat :=
  let n := c.toNat
  if 48 ≤ n ∧ n ≤ 57 then some (n - 48)
  else if 65 ≤ n ∧ n ≤ 70 then some (n - 55)
  else if 97 ≤ n ∧ n ≤ 102 then some (n - 87)
  else none

/-- The value of a row of digits, most significant first, read after the value `acc` (R10). -/
def digitsAfter (radix acc : Nat) : List Char → Option Nat
  | [] => some acc
  | c :: cs =>
    match digitValue c with
    | some d => if d < radix then digitsAfter radix (acc * radix + d) cs else none
    | none => none

/-- The value of a row of digits with at least one digit. -/
def digits (radix : Nat) : List Char → Option Nat
  | [] => none
  | c :: cs => digitsAfter radix 0 (c :: cs)

/-- A literal of R72: `0x` and hexadecimal digits, or `0b` and binary digits. -/
def literal : List Char → Option Nat
  | '0' :: 'x' :: ds => digits 16 ds
  | '0' :: 'b' :: ds => digits 2 ds
  | _ => none

/-- A byte of R72: a literal in 0..255. -/
def byteOfText (t : List Char) : Option Byte :=
  match literal t with
  | some n => if n < 256 then some (BitVec.ofNat 8 n) else none
  | none => none

/-- The number a code point's text writes: `U+` and hexadecimal digits, or a literal (R72). -/
def codePointNumber : List Char → Option Nat
  | 'U' :: '+' :: ds => digits 16 ds
  | t => literal t

/-- A code point of R72, a 21-bit value (R63). -/
def codePointOfText (t : List Char) : Option CodePoint :=
  match codePointNumber t with
  | some n => if n < 2 ^ 21 then some (BitVec.ofNat 21 n) else none
  | none => none

/-- Text without the spaces before it and after it. -/
def trim (t : List Char) : List Char :=
  ((t.dropWhile (· == ' ')).reverse.dropWhile (· == ' ')).reverse

/-- The pieces of a text between its commas. -/
def commaPieces : List Char → List (List Char)
  | [] => [[]]
  | c :: cs =>
    if c == ',' then [] :: commaPieces cs
    else
      match commaPieces cs with
      | [] => [[c]]
      | p :: ps => (c :: p) :: ps

/-- What stands between the square brackets of a sequence (R72). -/
def inBrackets : List Char → Option (List Char)
  | '[' :: t =>
    match t.reverse with
    | ']' :: r => some r.reverse
    | _ => none
  | _ => none

/-- A sequence of R72: elements in square brackets with commas between them; `[]` is empty. -/
def sequenceOfText {α : Type} (element : List Char → Option α) (t : List Char) : Option (List α) :=
  match inBrackets t with
  | none => none
  | some body =>
    if trim body == [] then some [] else (commaPieces body).mapM fun p => element (trim p)

/-- The operand of an operation, from its text (R61, R72). -/
def commandOfOperand (o : Op) (t : List Char) : Option Instr :=
  match o with
  | .permute => (byteOfText t).map Instr.permute
  | .unpermute => (byteOfText t).map Instr.unpermute
  | .encode => (sequenceOfText byteOfText t).map Instr.encode
  | .decode => (sequenceOfText codePointOfText t).map Instr.decode

/-- The command a text writes: the mnemonic followed by its operand (R72). -/
def assemble (text : List Char) : Option Instr :=
  let t := trim text
  match opOfMnemonic (t.takeWhile (· != ' ')) with
  | some o => commandOfOperand o (trim (t.dropWhile (· != ' ')))
  | none => none

/-- One hexadecimal digit. -/
def hexDigit (n : Nat) : Char := if n < 10 then Char.ofNat (48 + n) else Char.ofNat (55 + n)

/-- The last `k` hexadecimal digits of a number, most significant first. -/
def hexDigits : Nat → Nat → List Char
  | 0, _ => []
  | k + 1, n => hexDigits k (n / 16) ++ [hexDigit (n % 16)]

/-- A byte as text: two hexadecimal digits (R72). -/
def textOfByte (b : Byte) : List Char := '0' :: 'x' :: hexDigits 2 b.toNat

/-- A code point as text: six hexadecimal digits, enough for 21 bits (R72). -/
def textOfCodePoint (c : CodePoint) : List Char := '0' :: 'x' :: hexDigits 6 c.toNat

/-- Elements with a comma and a space between them. -/
def commaJoin : List (List Char) → List Char
  | [] => []
  | [p] => p
  | p :: ps => p ++ ',' :: ' ' :: commaJoin ps

/-- The operand of a command as text (R72). -/
def textOfOperand : Instr → List Char
  | .permute b => textOfByte b
  | .unpermute c => textOfByte c
  | .encode S => '[' :: commaJoin (S.map textOfByte) ++ [']']
  | .decode T => '[' :: commaJoin (T.map textOfCodePoint) ++ [']']

/-- A command as text (R72). -/
def disassemble (i : Instr) : List Char := opMnemonic i.op ++ ' ' :: textOfOperand i

end Sys2Proof.Machine
end

