-- ==== Sys2Proof/Machine/Flags.lean ====
section
/-! DEFINITION. The block stores no flag (R23). The one status a command returns belongs to its
response and is computed from it here. -/

namespace Sys2Proof.Machine

/-- `ERR_CODE_OUTSIDE` = 1 (R7, R131). -/
def errCodeOutside : Nat := 1

/-- The code of an error kind (R132). -/
def ErrorKind.code : ErrorKind → Nat
  | .outsideBrailleBlock => errCodeOutside

/-- The status of a response: 0 for success, the error's code otherwise (R131; its width, log 15). -/
def Response.status : Response → Nat
  | .ok _ => 0
  | .err e => e.code

/-- The payload a response delivers: none with an error (R131). -/
def Response.payload : Response → Option Payload
  | .ok p => some p
  | .err _ => none

end Sys2Proof.Machine
end

