-- ==== Sys2Proof/Machine/Glyph.lean ====
section
/-! DEFINITION. The visual reading of a Braille cell (R88, informative): no command uses it. -/

namespace Sys2Proof.Machine

/-- Is dot `dot` (1 to 8) of the cell `c` raised? Bit `k` of `c` − 0x2800 raises dot `k` + 1
(PRESUMED: the spec marks the geometry as general knowledge; log 14). -/
def dotRaised (c : CodePoint) (dot : Nat) : Bool := (c - base).getLsbD (dot - 1)

/-- The dots of the left column, top to bottom (R88; log 14). -/
def leftColumn : List Nat := [1, 2, 3, 7]

/-- The dots of the right column, top to bottom (R88; log 14). -/
def rightColumn : List Nat := [4, 5, 6, 8]

/-- A column of a cell, read top to bottom. -/
def columnOf (c : CodePoint) (column : List Nat) : List Bool := column.map (dotRaised c)

end Sys2Proof.Machine
end

