-- ==== Sys2Proof/Machine/Units.lean ====
section
/-! DEFINITION. The structural view of the block (R67) and a streaming DECODE (R27, R156): ways to
build it, which the statements hold against the commands. No meaning calls them. -/

namespace Sys2Proof.Machine

/-- `braille_encoder` element slice (R67): `e_out = ENC1(e_in)`. -/
def brailleEncoderSlice (impl : PermImpl) (eIn : Byte) : CodePoint := enc1 impl eIn

/-- `braille_decoder` element slice (R67): `(d_err, d_out) = DEC1(d_in)`. With `d_err` = 1 the value
of `d_out` is unspecified: a free value (D20). -/
def brailleDecoderSlice (impl : PermImpl) (dIn : CodePoint) : Bool × Byte :=
  match dec1 impl dIn with
  | .ok b => (false, b)
  | .error _ => (true, Config.dOutOnError dIn)

/-- The ENCODE sequence unit (R67): one encoder slice per element. -/
def encodeUnit (impl : PermImpl) (S : List Byte) : Response :=
  .ok (.codePoints (S.map (brailleEncoderSlice impl)))

/-- The DECODE sequence unit (R67): one decoder slice per element, `d_err` ORed over all of them, and
the `d_out` values delivered only when that OR is 0. -/
def decodeUnit (impl : PermImpl) (T : List CodePoint) : Response :=
  let outs := T.map (brailleDecoderSlice impl)
  if outs.any Prod.fst then .err .outsideBrailleBlock else .ok (.bytes (outs.map Prod.snd))

/-- The internal state of a streaming DECODE in flight (R27): the results held back until the last
element is checked, newest first, and the error-seen bit. -/
structure InFlight where
  held : List Byte
  errorSeen : Bool
deriving DecidableEq, Repr

/-- One element of a streaming DECODE. -/
def InFlight.accept (impl : PermImpl) (st : InFlight) (c : CodePoint) : InFlight :=
  let out := brailleDecoderSlice impl c
  { held := out.2 :: st.held, errorSeen := st.errorSeen || out.1 }

/-- A streaming DECODE, which lets no byte out before the whole sequence has passed the check (R156). -/
def streamDecode (impl : PermImpl) (T : List CodePoint) : Response :=
  let st := T.foldl (InFlight.accept impl) { held := [], errorSeen := false }
  if st.errorSeen then .err .outsideBrailleBlock else .ok (.bytes st.held.reverse)

end Sys2Proof.Machine
end

