-- ==== Sys2Proof/WellFormed.lean ====
section
/-! DEFINITION. Which commands are admitted, and which frames present a command. -/

namespace Sys2Proof

/-- An admitted command (R71; log 16): ENCODE and DECODE keep n ≤ `MAX_SEQ_LEN`; every byte and every 21-bit
value is a legal operand (R62, R63), so nothing else can be ill-formed. -/
def Instr.wf (p : Params) : Instr → Bool
  | .permute _ => true
  | .unpermute _ => true
  | .encode S => p.admits S.length
  | .decode T => p.admits T.length

/-- Does an element word hold a byte element (R62)? -/
def ElemWord.isByte (e : ElemWord) : Bool := decide (e.toNat < 256)

/-- A frame that presents a command: an assigned operation value (R61), the element count of that
operation (R70), and byte elements where bytes are due (R62). -/
def Frame.wf (f : Frame) : Bool :=
  match f.op.toNat with
  | 0 => f.elems.length == 1 && f.elems.all ElemWord.isByte
  | 1 => f.elems.length == 1 && f.elems.all ElemWord.isByte
  | 2 => f.elems.all ElemWord.isByte
  | 3 => true
  | _ => false

end Sys2Proof
end

