-- ==== Sys2Proof/Safety.lean ====
section
/-! DEFINITION. What the block owes the host: the response to each command, a run that never stops,
and the invariant of the responses. -/

namespace Sys2Proof.Machine

/-- The number of 1 bits of a byte (R83). -/
def popcount (b : Byte) : Nat := ((List.range 8).filter fun k => b.getLsbD k).length

/-- `ENC1` as R102 writes it, with no choice of implementation. -/
def specEnc1 (b : Byte) : CodePoint := 0x2800 + (perm b).setWidth 21

/-- The response to an admitted command, as R82, R86, R104 and R110 write it: a function of the
command's operands alone (R21), with no lane, table or state in it. -/
def reply : Instr → Response
  | .permute b => .ok (.byte (perm b))
  | .unpermute c => .ok (.byte (unperm c))
  | .encode S => .ok (.codePoints (S.map specEnc1))
  | .decode T =>
    if T.all inBlock then .ok (.bytes (T.map fun c => unperm (c.setWidth 8)))
    else .err .outsideBrailleBlock

/-- A state in which every command not yet answered is one, and is admitted (R66, R71). -/
def State.Safe (s : State) : Prop :=
  ∀ f ∈ s.queue, ∃ i, decode f = .ok i ∧ i.wf s.params = true

/-- A response the block may have given: ENCODE's code points lie in the block (R103) and no payload
is longer than an admitted command (R71). -/
def Response.Legal (p : Params) : Response → Prop
  | .ok (.byte _) => True
  | .ok (.codePoints cs) =>
    (∀ c ∈ cs, 0x2800 ≤ c.toNat ∧ c.toNat ≤ 0x28FF) ∧ p.admits cs.length = true
  | .ok (.bytes bs) => p.admits bs.length = true
  | .err _ => True

/-- The invariant of the machine: every response returned so far is legal. -/
def State.Inv (s : State) : Prop := ∀ r ∈ s.responses, r.Legal s.params

end Sys2Proof.Machine
end

