-- ==== Sys2Proof/Certificates/Slice0/Obligations.lean ====
section
/-! DEFINITION. The statements for the provers. -/

open Sys2Proof Sys2Proof.Machine

/-! The permutation and its tables (40_permutation.md). -/

/-- R80: each input bit of `PERM` goes to its output bit. -/
def Obligations.PermMovesBits : Prop :=
  ∀ b : Byte,
    (perm b).getLsbD 7 = b.getLsbD 0 ∧ (perm b).getLsbD 5 = b.getLsbD 1 ∧
    (perm b).getLsbD 4 = b.getLsbD 2 ∧ (perm b).getLsbD 3 = b.getLsbD 3 ∧
    (perm b).getLsbD 6 = b.getLsbD 4 ∧ (perm b).getLsbD 2 = b.getLsbD 5 ∧
    (perm b).getLsbD 1 = b.getLsbD 6 ∧ (perm b).getLsbD 0 = b.getLsbD 7

/-- R84: each input bit of `UNPERM` goes to its output bit, and `UNPERM` is the inverse of `PERM`. -/
def Obligations.UnpermMovesBits : Prop :=
  (∀ c : Byte,
    (unperm c).getLsbD 7 = c.getLsbD 0 ∧ (unperm c).getLsbD 6 = c.getLsbD 1 ∧
    (unperm c).getLsbD 5 = c.getLsbD 2 ∧ (unperm c).getLsbD 3 = c.getLsbD 3 ∧
    (unperm c).getLsbD 2 = c.getLsbD 4 ∧ (unperm c).getLsbD 1 = c.getLsbD 5 ∧
    (unperm c).getLsbD 4 = c.getLsbD 6 ∧ (unperm c).getLsbD 0 = c.getLsbD 7) ∧
  ∀ b : Byte, unperm (perm b) = b

/-- R81: the forward table has 256 entries, each value once, and entry `b` is `PERM(b)`. -/
def Obligations.PermTableContents : Prop :=
  permLut.length = 256 ∧ permLut.Nodup ∧ ∀ b : Byte, permLut[b.toNat]? = some (perm b)

/-- R85: the inverse table has 256 entries and entry `c` is `UNPERM(c)`. -/
def Obligations.UnpermTableContents : Prop :=
  unpermLut.length = 256 ∧ unpermLut.Nodup ∧ ∀ c : Byte, unpermLut[c.toNat]? = some (unperm c)

/-- R87: the two units undo each other, however each of them is built. -/
def Obligations.UnitsUndoEachOther : Prop :=
  ∀ (p q : PermImpl) (b : Byte),
    unpermUnit q (permUnit p b) = b ∧ permUnit p (unpermUnit q b) = b

/-- R83: the six properties of `PERM`. The cycles are those of the bit positions, seen on the bytes
with one bit set. -/
def Obligations.PermProperties : Prop :=
  Function.Bijective perm ∧
  (∀ b : Byte, 0 ≤ (perm b).toNat ∧ (perm b).toNat ≤ 255) ∧
  perm (perm 0x02) = 0x04 ∧
  (perm 0x01 = 0x80 ∧ perm 0x80 = 0x01 ∧
    perm 0x02 = 0x20 ∧ perm 0x20 = 0x04 ∧ perm 0x04 = 0x10 ∧ perm 0x10 = 0x40 ∧ perm 0x40 = 0x02 ∧
    perm 0x08 = 0x08) ∧
  (∀ b : Byte, Nat.iterate perm 10 b = b) ∧
  (∀ k : Nat, 0 < k → k < 10 → ∃ b : Byte, Nat.iterate perm k b ≠ b) ∧
  (∀ b : Byte, perm b = b ↔
    b ∈ ([0x00, 0x08, 0x76, 0x7E, 0x81, 0x89, 0xF7, 0xFF] : List Byte)) ∧
  ∀ b : Byte, popcount (perm b) = popcount b

/-- R82: PERMUTE completes in every state with the one response `Ok(PERM(b))` and changes nothing
else; the corner cases and the worked example of the rule. -/
def Obligations.PermuteReturnsPerm : Prop :=
  (∀ (s : State) (b : Byte),
    exec (.permute b) s = .next { s with responses := s.responses ++ [.ok (.byte (perm b))] }) ∧
  perm 0x00 = 0x00 ∧ perm 0xFF = 0xFF ∧ perm 0x88 = 0x09 ∧
  ∀ b : Byte, (perm b).getLsbD 3 = b.getLsbD 3 ∧ popcount (perm b) = popcount b

/-- R86: UNPERMUTE completes in every state with the one response `Ok(UNPERM(c))` and changes nothing
else; the corner cases and the worked example of the rule. -/
def Obligations.UnpermuteReturnsUnperm : Prop :=
  (∀ (s : State) (c : Byte),
    exec (.unpermute c) s = .next { s with responses := s.responses ++ [.ok (.byte (unperm c))] }) ∧
  unperm 0x00 = 0x00 ∧ unperm 0xFF = 0xFF ∧ unperm 0x09 = 0x88 ∧
  ∀ c : Byte, (unperm c).getLsbD 3 = c.getLsbD 3 ∧ popcount (unperm c) = popcount c ∧
    (unperm c = c ↔ perm c = c)

/-- R88 (informative; the dot geometry is general knowledge, log 14): a cell's left column, top to
bottom, shows bits 7..4 of its byte, and its right column bits 3..0. -/
def Obligations.CellShowsBarGraph : Prop :=
  ∀ (impl : PermImpl) (b : Byte),
    columnOf (enc1 impl b) leftColumn = [b.getLsbD 7, b.getLsbD 6, b.getLsbD 5, b.getLsbD 4] ∧
    columnOf (enc1 impl b) rightColumn = [b.getLsbD 3, b.getLsbD 2, b.getLsbD 1, b.getLsbD 0]

/-! The codec (41_codec.md). -/

/-- R101: the block-range predicate is the closed range test on the whole 21-bit value. -/
def Obligations.InBlockIsClosedRange : Prop :=
  ∀ c : CodePoint, inBlock c = true ↔ 0x2800 ≤ c.toNat ∧ c.toNat ≤ 0x28FF

/-- R103: `ENC1` lies in the block and is a bijection from the bytes onto it. -/
def Obligations.EncoderIsBijectionOntoBlock : Prop :=
  ∀ impl : PermImpl,
    (∀ b : Byte, inBlock (enc1 impl b) = true) ∧
    Function.Injective (enc1 impl) ∧
    ∀ c : CodePoint, inBlock c = true → ∃ b : Byte, enc1 impl b = c

/-- R112: the addition of `ENC1` and the subtraction of `DEC1` are exact. -/
def Obligations.ArithmeticNeverOverflows : Prop :=
  (∀ (impl : PermImpl) (b : Byte),
    (enc1 impl b).toNat = 0x2800 + (perm b).toNat ∧ 0x2800 ≤ (enc1 impl b).toNat ∧
    (enc1 impl b).toNat ≤ 0x28FF) ∧
  ∀ c : CodePoint, inBlock c = true →
    (c - base).toNat = c.toNat - 0x2800 ∧ 0x2800 ≤ c.toNat ∧ (c - base).toNat ≤ 255

/-- R107: every in-block value decodes, its offset is its low byte, and `DEC1` undoes `ENC1`. -/
def Obligations.DecoderInvertsEncoder : Prop :=
  ∀ p q : PermImpl,
    (∀ c : CodePoint, inBlock c = true →
      (c - base).toNat ≤ 255 ∧ c - base = (c.setWidth 8).setWidth 21 ∧ ∃ b, dec1 p c = .ok b) ∧
    ∀ b : Byte, dec1 p (enc1 q b) = .ok b

/-- R108: a value below or above the block is never wrapped or truncated: its element gives the error
and no byte, and so does the DECODE of it, in every state that admits one element. -/
def Obligations.OutOfBlockNeverWraps : Prop :=
  ∀ c : CodePoint, c.toNat ≤ 0x27FF ∨ 0x2900 ≤ c.toNat →
    (∀ impl : PermImpl, dec1 impl c = .error .outsideBrailleBlock) ∧
    ∀ s : State, s.params.admits 1 = true →
      exec (.decode [c]) s =
        .next { s with responses := s.responses ++ [.err .outsideBrailleBlock] }

/-- R104: ENCODE of an admitted sequence completes in every state with the code points
`0x2800 + PERM(S[i])`, in order, and changes nothing else; a longer sequence gets no response. -/
def Obligations.EncodeReturnsCodePoints : Prop :=
  (∀ (s : State) (S : List Byte), (∀ m, s.params.maxSeqLen = some m → S.length ≤ m) →
    exec (.encode S) s = .next { s with responses := s.responses ++
      [.ok (.codePoints (S.map fun b => 0x2800 + (perm b).setWidth 21))] }) ∧
  ∀ (s : State) (S : List Byte) (m : Nat), s.params.maxSeqLen = some m → m < S.length →
    exec (.encode S) s = .refused (.overLength S.length)

/-- R110, R109: DECODE of an admitted sequence completes in every state: with the bytes, in order, when
every element lies in the block, and with the one error and no byte when some element does not.
Nothing else changes. -/
def Obligations.DecodeReturnsBytesOrError : Prop :=
  ∀ (s : State) (T : List CodePoint), (∀ m, s.params.maxSeqLen = some m → T.length ≤ m) →
    exec (.decode T) s = .next { s with responses := s.responses ++
      [if T.all fun c => decide (0x2800 ≤ c.toNat ∧ c.toNat ≤ 0x28FF)
        then .ok (.bytes (T.map fun c => unperm ((c - 0x2800).setWidth 8)))
        else .err .outsideBrailleBlock] }

/-- R64: every code point an ENCODE delivers has 0x0028 in bits 20..8 and the permuted byte in 7..0. -/
def Obligations.EncodePayloadFormat : Prop :=
  ∀ (s t : State) (S : List Byte), exec (.encode S) s = .next t →
    ∃ cs, t.responses = s.responses ++ [.ok (.codePoints cs)] ∧
      List.Forall₂ (fun b c => 0x2800 ≤ c.toNat ∧ c.toNat ≤ 0x28FF ∧
        c.extractLsb' 8 13 = (0x0028 : BitVec 13) ∧ c.extractLsb' 0 8 = perm b) S cs

/-- R105: ENCODE keeps the length, the empty sequence gives the empty sequence, element `i` of the
response is `ENC1` of element `i` of the operand, and it depends on that element alone: in any two
states, on any two sequences. -/
def Obligations.EncodeIsElementwise : Prop :=
  (∀ s : State, exec (.encode []) s =
    .next { s with responses := s.responses ++ [.ok (.codePoints [])] }) ∧
  ∀ (s s' t t' : State) (S S' : List Byte),
    exec (.encode S) s = .next t → exec (.encode S') s' = .next t' →
    ∃ cs cs', t.responses = s.responses ++ [.ok (.codePoints cs)] ∧
      t'.responses = s'.responses ++ [.ok (.codePoints cs')] ∧
      cs.length = S.length ∧ (∀ i : Nat, cs[i]? = S[i]?.map specEnc1) ∧
      ∀ i : Nat, S[i]? = S'[i]? → cs[i]? = cs'[i]?

/-- R111: what ENCODE delivers for `S` is decoded to `S`, and what DECODE delivers for in-block code
points `T` is encoded to `T`: in any two states that admit the length, however each is built. -/
def Obligations.CodecRoundTrips : Prop :=
  (∀ (s s' : State) (S : List Byte), s.params.admits S.length = true →
    s'.params.admits S.length = true → ∃ cs,
      exec (.encode S) s = .next { s with responses := s.responses ++ [.ok (.codePoints cs)] } ∧
      exec (.decode cs) s' = .next { s' with responses := s'.responses ++ [.ok (.bytes S)] }) ∧
  ∀ (s s' : State) (T : List CodePoint), s.params.admits T.length = true →
    s'.params.admits T.length = true → (∀ c ∈ T, inBlock c = true) → ∃ bs,
      exec (.decode T) s = .next { s with responses := s.responses ++ [.ok (.bytes bs)] } ∧
      exec (.encode bs) s' = .next { s' with responses := s'.responses ++ [.ok (.codePoints T)] }

/-! Frames, and the opcode table (30_encoding.md). -/

/-- The four values of `op`, each with its operation (R61), and frames written out for each command, in
the model's layout of a frame (logs 3, 4 and 5). -/
def Obligations.OpcodeWordsDecode : Prop :=
  (∀ w : OpWord, w.toNat < 4 → ∃ o, opOfWord w = some o) ∧
  opOfWord 0b00 = some .permute ∧ opOfWord 0b01 = some .unpermute ∧
  opOfWord 0b10 = some .encode ∧ opOfWord 0b11 = some .decode ∧
  decode ⟨0b00, [0b10001000]⟩ = .ok (.permute 0x88) ∧
  decode ⟨0b01, [0b00001001]⟩ = .ok (.unpermute 0x09) ∧
  decode ⟨0b10, [0b10101010, 0b01010101]⟩ = .ok (.encode [0xAA, 0x55]) ∧
  decode ⟨0b10, []⟩ = .ok (.encode []) ∧
  decode ⟨0b11, [0b000000010100000001001, 0b111111111111111111111]⟩ =
    .ok (.decode [0x2809, 0x1FFFFF])

/-- Decoding the frame of any command gives the command back, with every operand. -/
def Obligations.DecodeEncodeRoundTrip : Prop := ∀ i : Instr, decode (encode i) = .ok i

/-- A frame that decodes is the frame of what it decodes to: each command has one frame, and no bit of
a frame is dropped. It rests on the model's choice of words: an operation word above 3 (log 3) and an
element word above 255 where a byte is due (log 4) do not decode. -/
def Obligations.EncodeDecodeRoundTrip : Prop :=
  ∀ (f : Frame) (i : Instr), decode f = .ok i → encode i = f

/-- The decoder accepts exactly the frames that present a command (logs 3, 4 and 5: the
model's layout of a frame). -/
def Obligations.DecodeAcceptsWellFormedFrames : Prop :=
  ∀ f : Frame, (∃ i, decode f = .ok i) ↔ f.wf = true

/-- A frame that is no command is refused by its own name: an operation value above 3, which R69 says
a widened field must refuse (log 3); a number of elements other than one for PERMUTE and UNPERMUTE
(R70, log 5); an element above 255 where a byte is due (R62, log 4). -/
def Obligations.NonCommandsAreRefused : Prop :=
  (∀ (s : State) (f : Frame) (rest : List Frame), s.queue = f :: rest → 4 ≤ f.op.toNat →
    step s = .refused (.notACommand (.opNotAssigned f.op))) ∧
  (∀ (s : State) (f : Frame) (rest : List Frame), s.queue = f :: rest → f.op.toNat ≤ 1 →
    f.elems.length ≠ 1 → step s = .refused (.notACommand (.elementCount f.elems.length))) ∧
  ∀ (s : State) (f : Frame) (rest : List Frame), s.queue = f :: rest →
    (f.op.toNat ≤ 1 ∧ f.elems.length = 1) ∨ f.op.toNat = 2 → (∃ e ∈ f.elems, 256 ≤ e.toNat) →
    step s = .refused (.notACommand .notAByte)

/-- R72: command text is read as the command it writes: the rule's own five lines. -/
def Obligations.CommandTextExamples : Prop :=
  assemble "PERMUTE   0x88".toList = some (.permute 0x88) ∧
  assemble "UNPERMUTE 0x09".toList = some (.unpermute 0x09) ∧
  assemble "ENCODE    [0x88, 0x11, 0xF0, 0x0F]".toList = some (.encode [0x88, 0x11, 0xF0, 0x0F]) ∧
  assemble "DECODE    [U+2809, U+28C0, U+2847, U+28B8]".toList =
    some (.decode [0x2809, 0x28C0, 0x2847, 0x28B8]) ∧
  assemble "ENCODE    []".toList = some (.encode [])

/-- The text written for a command (log 13) is read back as the command. -/
def Obligations.CommandTextRoundTrip : Prop := ∀ i : Instr, assemble (disassemble i) = some i

/-! One step, and the host's side of it (30_encoding.md, 70_reset_and_hazards.md). -/

/-- A step takes the oldest command off the queue and performs exactly it. -/
def Obligations.StepRunsDecodedCommand : Prop :=
  ∀ (s : State) (f : Frame) (rest : List Frame) (i : Instr), s.queue = f :: rest →
    decode f = .ok i → step s = exec i { s with queue := rest }

/-- A command placed by `withFetchWord` is the one the very next step performs. -/
def Obligations.PlacedWordRunsNext : Prop :=
  ∀ (s : State) (nbits w : Nat) (i : Instr), decodeTableWord nbits w = some i →
    step (s.withFetchWord nbits w) = exec i s

/-- With no command outstanding a step changes nothing: the model's reading of the idle block (log 6). -/
def Obligations.IdleStepChangesNothing : Prop :=
  ∀ s : State, s.queue = [] → step s = .next s

/-- The frame of all four commands: one that completes adds one response and changes nothing else. -/
def Obligations.CommandsOnlyRespond : Prop :=
  ∀ (i : Instr) (s t : State), exec i s = .next t →
    ∃ r, t = { s with responses := s.responses ++ [r] }

/-- A step that completes either found nothing to do and changed nothing, or took the oldest command
and added exactly one response for it. -/
def Obligations.StepAnswersOldestCommand : Prop :=
  ∀ s t : State, step s = .next t →
    (s.queue = [] ∧ t = s) ∨
    ∃ f rest r, s.queue = f :: rest ∧
      t = { s with queue := rest, responses := s.responses ++ [r] }

/-- R71: an ENCODE or DECODE longer than `MAX_SEQ_LEN` is refused by name, whatever its elements; with
no bound every command completes in every state. -/
def Obligations.LengthBoundRefusesByName : Prop :=
  (∀ (s : State) (m : Nat), s.params.maxSeqLen = some m →
    (∀ S : List Byte, m < S.length → exec (.encode S) s = .refused (.overLength S.length)) ∧
    ∀ T : List CodePoint, m < T.length → exec (.decode T) s = .refused (.overLength T.length)) ∧
  ∀ (s : State) (i : Instr), s.params.maxSeqLen = none → ∃ t, exec i s = .next t

/-- Commands the host issues are all answered, each with its one response, in issue order, behind the
commands already waiting, and the block is idle again: after as many steps as there are commands. -/
def Obligations.RunAnswersAllInIssueOrder : Prop :=
  ∀ (s : State) (waiting cmds : List Instr), s.queue = waiting.map encode →
    (∀ i ∈ waiting, i.wf s.params = true) → (∀ i ∈ cmds, i.wf s.params = true) →
    Host.Core.run core (waiting.length + cmds.length)
        (cmds.foldl (fun (u : State) i => u.issue (encode i)) s : State) =
      .next { s with queue := [],
                     responses := s.responses ++ waiting.map reply ++ cmds.map reply }

/-- A command issued while another is outstanding waits its turn: the block performs the same step as
without it, and the command is then still waiting (R66). -/
def Obligations.IssueWaitsItsTurn : Prop :=
  ∀ (s t : State) (f : Frame), s.queue ≠ [] → step s = .next t →
    step (s.issue f) = .next (t.issue f)

/-- R30's record is the whole of the machine state: two states with the same record and the same
`MAX_SEQ_LEN` step alike, to the same record, with the same responses returned and the same refusals,
whatever the host has recorded before and however the block is built. -/
def Obligations.BlockRecordIsWholeMachineState : Prop :=
  ∀ s s' : State, s.toBlock = s'.toBlock → s.params.maxSeqLen = s'.params.maxSeqLen →
    (∀ t, step s = .next t → ∃ t' returned, step s' = .next t' ∧ t'.toBlock = t.toBlock ∧
      t.responses = s.responses ++ returned ∧ t'.responses = s'.responses ++ returned) ∧
    ∀ r, step s = .refused r → step s' = .refused r

/-- From a state whose unanswered commands are all admitted, a run of any length goes on (idle once all
are answered, log 6), and the state it reaches is such a state again. -/
def Obligations.SafeRunNeverStops : Prop :=
  ∀ (k : Nat) (s : State), s.Safe → ∃ t : State, Host.Core.run core k s = .next t ∧ t.Safe

/-- The responses stay legal: a step keeps the invariant. -/
def Obligations.StepKeepsLegalResponses : Prop :=
  ∀ s t : State, s.Inv → step s = .next t → t.Inv

/-- The state after reset meets the invariant and is safe. -/
def Obligations.ResetMeetsInvariant : Prop := State.reset.Inv ∧ State.reset.Safe

/-- After reset no command is outstanding and no length is bounded (R150, and R71's default). That no
response is recorded is the model's choice (log 2). -/
def Obligations.ResetIsIdle : Prop :=
  State.reset.queue = [] ∧ State.reset.responses = [] ∧ State.reset.params.maxSeqLen = none

/-- A reset abandons the commands not yet answered (R151; for all of the queue, log 8): however long the
block then runs on, idle (log 6), no response to any of them is delivered. -/
def Obligations.ResetAbandonsCommands : Prop :=
  ∀ (k : Nat) (s : State), Host.Core.run core k s.assertReset = .next s.assertReset ∧
    s.assertReset.responses = s.responses

/-- A command's response is the same as the first command after a reset (R152; the model's reset is
log 8) and as a later one. -/
def Obligations.ResponseSameAfterReset : Prop :=
  ∀ (s : State) (i : Instr), i.wf s.params = true → ∃ r,
    step (s.assertReset.issue (encode i)) =
      .next { s with queue := [], responses := s.responses ++ [r] } ∧
    ∀ rest : List Frame, step { s with queue := encode i :: rest } =
      .next { s with queue := rest, responses := s.responses ++ [r] }

/-! Responses and errors (10_state.md, 20_memory.md, 60_exceptions.md). -/

/-- R28: the response to a command is the same in any two states that admit it, whatever responses were
given before, whatever is outstanding, and however the block is built (R50, R89). -/
def Obligations.ResponseIgnoresHistory : Prop :=
  ∀ (i : Instr) (s s' : State), i.wf s.params = true → i.wf s'.params = true → ∃ r,
    exec i s = .next { s with responses := s.responses ++ [r] } ∧
    exec i s' = .next { s' with responses := s'.responses ++ [r] }

/-- `LANES` and `PERM_IMPL` are not observable: changing them changes no outcome of any command. -/
def Obligations.BuildIsNotObservable : Prop :=
  ∀ (i : Instr) (s : State) (p : Params), p.maxSeqLen = s.params.maxSeqLen →
    (∀ t, exec i s = .next t → exec i { s with params := p } = .next { t with params := p }) ∧
    ∀ r, exec i s = .refused r → exec i { s with params := p } = .refused r

/-- R46: issuing the same command twice gives the same response twice, and nothing else happens. -/
def Obligations.CommandsAreIdempotent : Prop :=
  ∀ (i : Instr) (s t : State), exec i s = .next t → ∃ r,
    t = { s with responses := s.responses ++ [r] } ∧
    exec i t = .next { s with responses := s.responses ++ [r] ++ [r] }

/-- R130, R109: a command is answered with the error exactly when it is a DECODE and some element of it
lies outside the block. -/
def Obligations.OnlyOutOfBlockDecodeErrs : Prop :=
  ∀ (i : Instr) (s t : State), exec i s = .next t →
    (t.responses = s.responses ++ [.err .outsideBrailleBlock] ↔
      ∃ T, i = .decode T ∧ ∃ c ∈ T, ¬(0x2800 ≤ c.toNat ∧ c.toNat ≤ 0x28FF))

/-- R131: a failed DECODE completes with status 1, the one error kind and no payload; every other
completion has status 0 and a payload. -/
def Obligations.StatusOfResponse : Prop :=
  ∀ (i : Instr) (s t : State), exec i s = .next t → ∃ r, t.responses = s.responses ++ [r] ∧
    ((r.status = 0 ∧ ∃ p, r.payload = some p) ∨
      (r.status = 1 ∧ r = .err .outsideBrailleBlock ∧ r.payload = none ∧ ∃ T, i = .decode T))

/-- R133: two DECODEs that both have bad elements, however many and wherever, are the same to the host:
one error. -/
def Obligations.BadElementNotIdentified : Prop :=
  ∀ (s : State) (T T' : List CodePoint), s.params.admits T.length = true →
    s.params.admits T'.length = true → (∃ c ∈ T, inBlock c = false) →
    (∃ c ∈ T', inBlock c = false) →
    exec (.decode T) s = .next { s with responses := s.responses ++ [.err .outsideBrailleBlock] } ∧
    exec (.decode T') s = exec (.decode T) s

/-- An error traps nowhere (R135, R136). After a failed DECODE the next command, whatever it is, gets
the response it would have had without it. -/
def Obligations.ErrorAffectsNoLaterCommand : Prop :=
  ∀ (s : State) (T : List CodePoint) (i : Instr), s.params.admits T.length = true →
    (∃ c ∈ T, inBlock c = false) → i.wf s.params = true → ∃ r,
      exec i s = .next { s with responses := s.responses ++ [r] } ∧
      Host.Core.run core 2 { s with queue := [encode (.decode T), encode i] } =
        .next { s with queue := [], responses := s.responses ++ [.err .outsideBrailleBlock, r] }

/-! Ways to build the block (20_memory.md, 30_encoding.md, 70_reset_and_hazards.md). -/

/-- Whatever the order in which parallel workers complete the elements, reassembling their
results in input order gives the response of the command (R50, R155). -/
def Obligations.AnyCompletionOrderReassembles : Prop :=
  ∀ s : State,
    (∀ (S : List Byte) (done : List (Nat × CodePoint)), s.params.admits S.length = true →
      done.Perm (S.zipIdx.map fun p => (p.2, specEnc1 p.1)) →
      exec (.encode S) s = .next { s with responses := s.responses ++
        [.ok (.codePoints (reassemble S.length done))] }) ∧
    ∀ (T : List CodePoint) (impl : PermImpl) (done : List (Nat × Except ErrorKind Byte)),
      s.params.admits T.length = true →
      done.Perm (T.zipIdx.map fun p => (p.2, dec1 impl p.1)) →
      exec (.decode T) s = .next { s with responses := s.responses ++
        [match wholeCall (reassemble T.length done) with
          | .ok bs => .ok (.bytes bs)
          | .error e => .err e] }

/-- The structural view of R67 answers as the commands do, whatever the decoder slice puts on `d_out`
for a value out of the block. -/
def Obligations.StructuralUnitsRealiseCommands : Prop :=
  ∀ (s : State) (impl : PermImpl),
    (∀ S : List Byte, s.params.admits S.length = true → exec (.encode S) s =
      .next { s with responses := s.responses ++ [encodeUnit impl S] }) ∧
    ∀ T : List CodePoint, s.params.admits T.length = true → exec (.decode T) s =
      .next { s with responses := s.responses ++ [decodeUnit impl T] }

/-- R27 and R156: a streaming DECODE that holds every result back until the last element is checked
answers as the atomic command does. -/
def Obligations.StreamingDecodeRealisesDecode : Prop :=
  ∀ (s : State) (impl : PermImpl) (T : List CodePoint), s.params.admits T.length = true →
    exec (.decode T) s = .next { s with responses := s.responses ++ [streamDecode impl T] }
end

