-- ==== Sys2Proof/Laws/Operands.lean ====
section
/-! SUPPORT. What the element-wise map and the whole-call check answer. -/

namespace Sys2Proof.Machine

/-- A place is looked up to its one result when some result stands for it and all that do agree. -/
theorem lookup_eq_some_of_mem {β : Type} {done : List (Nat × β)} {i : Nat} {y : β}
    (all : ∀ p ∈ done, p.1 = i → p.2 = y) (one : ∃ p ∈ done, p.1 = i) :
    done.lookup i = some y := by
  induction done with
  | nil => simp at one
  | cons p ps ih =>
    obtain ⟨k, z⟩ := p
    rw [List.lookup_cons]
    by_cases hk : i = k
    · have hz : z = y := all (k, z) (by simp) hk.symm
      simp [hk, hz]
    · have : (i == k) = false := by simpa using hk
      rw [this]
      obtain ⟨q, hq, hqi⟩ := one
      refine ih (fun p hp => all p (by simp [hp])) ⟨q, ?_, hqi⟩
      rcases List.mem_cons.1 hq with rfl | h
      · exact absurd hqi.symm hk
      · exact h

/-- Reassembly gives the outputs in input order, whatever the order of completion (R155): it is enough
that every result is the one of its place, and that every place has one. -/
theorem reassemble_eq_map {α β : Type} {f : α → β} {S : List α} {done : List (Nat × β)}
    (right : ∀ p ∈ done, S[p.1]?.map f = some p.2)
    (every : ∀ i < S.length, ∃ p ∈ done, p.1 = i) :
    reassemble S.length done = S.map f := by
  have key : ∀ i < S.length, done.lookup i = S[i]?.map f := by
    intro i hi
    rw [List.getElem?_eq_getElem hi, Option.map_some]
    refine lookup_eq_some_of_mem (fun p hp h => ?_) (every i hi)
    have := right p hp
    rw [h, List.getElem?_eq_getElem hi] at this
    simpa using this.symm
  have : reassemble S.length done = (List.range S.length).filterMap fun i => S[i]?.map f := by
    refine List.filterMap_congr fun i hi => key i (List.mem_range.1 hi)
  rw [this]
  clear key this right every
  induction S with
  | nil => rfl
  | cons a S ih =>
    rw [List.length_cons, List.range_succ_eq_map, List.filterMap_cons, List.filterMap_map]
    simpa [Function.comp_def] using ih

/-- What the lanes deliver between them: each element's result at its place. -/
theorem mem_allLaneResults {α β : Type} {lanes : Nat} (h : 0 < lanes) (f : α → β) (S : List α)
    (p : Nat × β) : p ∈ allLaneResults lanes f S ↔ ∃ a, S[p.1]? = some a ∧ f a = p.2 := by
  obtain ⟨i, y⟩ := p
  simp only [allLaneResults, laneResults, List.mem_flatMap, List.mem_range, List.mem_map,
    List.mem_filter, Prod.mk.injEq, beq_iff_eq, Prod.exists, List.mem_zipIdx_iff_getElem?]
  constructor
  · rintro ⟨lane, -, a, j, ⟨ha, -⟩, rfl, rfl⟩
    exact ⟨a, ha, rfl⟩
  · rintro ⟨a, ha, rfl⟩
    exact ⟨i % lanes, Nat.mod_lt _ h, a, i, ⟨ha, rfl⟩, rfl, rfl⟩

/-- The element-wise map is the map, in any number of lanes (R50). -/
theorem laneMap_eq_map {α β : Type} {lanes : Nat} (h : 0 < lanes) (f : α → β) (S : List α) :
    laneMap lanes f S = S.map f := by
  refine reassemble_eq_map (fun p hp => ?_) fun i hi => ?_
  · obtain ⟨a, ha, hy⟩ := (mem_allLaneResults h f S p).1 hp
    simp [ha, hy]
  · exact ⟨(i, f S[i]), (mem_allLaneResults h f S _).2 ⟨S[i], by simp [hi], rfl⟩, rfl⟩

theorem Params.lanes_pos (p : Params) : 0 < p.lanes := Nat.succ_pos _

/-- A DECODE delivers every byte when every element decodes (R110). -/
theorem wholeCall_map_ok {α : Type} {f : α → Except ErrorKind Byte} {g : α → Byte} {T : List α}
    (h : ∀ c ∈ T, f c = .ok (g c)) : wholeCall (T.map f) = .ok (T.map g) := by
  induction T with
  | nil => rfl
  | cons c T ih =>
    simp only [List.map_cons, h c (by simp), wholeCall, ih fun d hd => h d (by simp [hd])]

/-- A DECODE delivers nothing when some element does not decode, wherever it stands (R110, R133). -/
theorem wholeCall_eq_error {rs : List (Except ErrorKind Byte)} {e : ErrorKind}
    (h : .error e ∈ rs) : wholeCall rs = .error e := by
  induction rs with
  | nil => simp at h
  | cons r rs ih =>
    cases r with
    | error e' => cases e; cases e'; rfl
    | ok b =>
      rw [wholeCall, ih (by simpa using h)]

end Sys2Proof.Machine
end

