-- ==== Sys2Proof/Laws/Permutation.lean ====
section
/-! SUPPORT. What the permutation units and the element codecs answer, whichever way they are built. -/

namespace Sys2Proof.Machine

set_option maxRecDepth 4000 in
/-- The permutation unit is `PERM`, table or wiring (R89). -/
theorem permUnit_eq (impl : PermImpl) (b : Byte) : permUnit impl b = perm b := by
  cases impl with
  | crossbar => rfl
  | lut => revert b; decide

set_option maxRecDepth 4000 in
/-- The inverse unit is `UNPERM`, table or wiring (R89). -/
theorem unpermUnit_eq (impl : PermImpl) (c : Byte) : unpermUnit impl c = unperm c := by
  cases impl with
  | crossbar => rfl
  | lut => revert c; decide

/-- The range test as numbers (R101). -/
theorem inBlock_eq_true_iff (c : CodePoint) :
    inBlock c = true ↔ blockLo.toNat ≤ c.toNat ∧ c.toNat ≤ blockHi.toNat := by
  simp [inBlock, BitVec.le_def]

/-- The element encoder does not depend on how the permutation is built. -/
theorem enc1_eq (impl : PermImpl) (b : Byte) : enc1 impl b = base + (perm b).setWidth 21 := by
  rw [enc1, permUnit_eq]

/-- The low byte of the offset is the low byte of the code point (R68). -/
theorem offset_low_byte (c : CodePoint) : (c - base).setWidth 8 = c.setWidth 8 := by
  apply BitVec.eq_of_toNat_eq
  simp [base, BitVec.toNat_sub]
  omega

/-- The element decoder in the block (R106). -/
theorem dec1_of_inBlock (impl : PermImpl) {c : CodePoint} (h : inBlock c = true) :
    dec1 impl c = .ok (unperm (c.setWidth 8)) := by
  rw [dec1, if_pos h, unpermUnit_eq, offset_low_byte]

/-- The element decoder out of the block (R106). -/
theorem dec1_of_not_inBlock (impl : PermImpl) {c : CodePoint} (h : inBlock c = false) :
    dec1 impl c = .error .outsideBrailleBlock := by
  rw [dec1, h]; rfl

end Sys2Proof.Machine
end

