-- ==== Sys2Proof/Laws/Codec.lean ====
section
/-! SUPPORT. What a DECODE of a whole sequence delivers. -/

namespace Sys2Proof.Machine

/-- Every element in the block: the bytes, in order (R110). -/
theorem wholeCall_dec1_of_all (impl : PermImpl) {T : List CodePoint}
    (h : T.all inBlock = true) :
    wholeCall (T.map (dec1 impl)) = .ok (T.map fun c => unperm (c.setWidth 8)) :=
  wholeCall_map_ok fun c hc => dec1_of_inBlock impl (List.all_eq_true.1 h c hc)

/-- Some element out of the block: the error (R109, R110). -/
theorem wholeCall_dec1_of_not_all (impl : PermImpl) {T : List CodePoint}
    (h : T.all inBlock = false) :
    wholeCall (T.map (dec1 impl)) = .error .outsideBrailleBlock := by
  obtain ⟨c, hc, hb⟩ := List.all_eq_false.1 h
  refine wholeCall_eq_error (List.mem_map.2 ⟨c, hc, dec1_of_not_inBlock impl ?_⟩)
  simpa using hb

end Sys2Proof.Machine
end

