-- ==== Sys2Proof/Laws/Decode.lean ====
section
/-! SUPPORT. What the decoder's readers of element words answer. -/

namespace Sys2Proof

/-- A byte element's word reads back as the byte (R62). -/
theorem byteOfElem_elemOfByte (b : Byte) : byteOfElem (elemOfByte b) = some b := by
  have h : b.toNat < 2 ^ 8 := b.isLt
  have h' : (elemOfByte b).toNat < 256 := by
    simp only [elemOfByte, BitVec.toNat_setWidth]; omega
  rw [byteOfElem, if_pos h', elemOfByte]
  congr 1
  apply BitVec.eq_of_toNat_eq
  simp only [BitVec.toNat_setWidth]
  omega

/-- Only a byte element's own word reads as a byte. -/
theorem byteOfElem_eq_some {e : ElemWord} {b : Byte} (h : byteOfElem e = some b) :
    elemOfByte b = e := by
  unfold byteOfElem at h
  split at h
  · next he =>
    cases h
    apply BitVec.eq_of_toNat_eq
    simp only [elemOfByte, BitVec.toNat_setWidth]
    omega
  · cases h

/-- An element word reads as a byte exactly when it is one. -/
theorem byteOfElem_isSome (e : ElemWord) : (byteOfElem e).isSome = ElemWord.isByte e := by
  unfold byteOfElem ElemWord.isByte
  split <;> simp_all

/-- A list of element words reads as bytes exactly when each one is a byte. -/
theorem bytesOfElems_isSome (es : List ElemWord) :
    (bytesOfElems es).isSome = es.all ElemWord.isByte := by
  induction es with
  | nil => rfl
  | cons e es ih =>
    rw [bytesOfElems, List.all_cons, ← ih, ← byteOfElem_isSome]
    cases byteOfElem e <;> cases bytesOfElems es <;> rfl

/-- The operation select value of an operation selects it (R61). -/
@[simp] theorem opOfWord_word (o : Op) : opOfWord o.word = some o := by cases o <;> rfl

end Sys2Proof
end

