-- ==== Sys2Proof/Laws/PerInstr.lean ====
section
/-! SUPPORT. One lemma per command: the frame the encoder writes presents a command. -/

namespace Sys2Proof

/-- A byte's element word holds a byte. -/
theorem isByte_elemOfByte (b : Byte) : ElemWord.isByte (elemOfByte b) = true := by
  rw [← byteOfElem_isSome, byteOfElem_elemOfByte]; rfl

namespace Laws.EncodedFrame

/-- The encoder's frame of the command is well-formed. -/
def Statement (i : Instr) : Prop := (Sys2Proof.encode i).wf = true

theorem permute (b : Byte) : Statement (.permute b) := by
  simp [Statement, Sys2Proof.encode, Frame.wf, encodeElems, Instr.op, Op.word, isByte_elemOfByte]

theorem unpermute (c : Byte) : Statement (.unpermute c) := by
  simp [Statement, Sys2Proof.encode, Frame.wf, encodeElems, Instr.op, Op.word, isByte_elemOfByte]

theorem encode (S : List Byte) : Statement (.encode S) := by
  simp [Statement, Sys2Proof.encode, Frame.wf, encodeElems, Instr.op, Op.word, isByte_elemOfByte]

theorem decode (T : List CodePoint) : Statement (.decode T) := by
  simp [Statement, Sys2Proof.encode, Frame.wf, encodeElems, Instr.op, Op.word]

end Laws.EncodedFrame

end Sys2Proof
end

