-- ==== Sys2Proof/Laws/State.lean ====
section
/-! SUPPORT. One lemma per field per update of State. -/

namespace Sys2Proof.Machine

variable (s : State) (r : Response) (p : Payload) (e : ErrorKind) (f : Frame) (nbits w : Nat)

@[simp] theorem respond_queue : (s.respond r).queue = s.queue := rfl
@[simp] theorem respond_responses : (s.respond r).responses = s.responses ++ [r] := rfl
@[simp] theorem respond_params : (s.respond r).params = s.params := rfl

@[simp] theorem deliver_eq_respond : s.deliver p = s.respond (.ok p) := rfl
@[simp] theorem raise_eq_respond : s.raise e = s.respond (.err e) := rfl

@[simp] theorem issue_queue : (s.issue f).queue = s.queue ++ [f] := rfl
@[simp] theorem issue_responses : (s.issue f).responses = s.responses := rfl
@[simp] theorem issue_params : (s.issue f).params = s.params := rfl

@[simp] theorem respond_toBlock : (s.respond r).toBlock = s.toBlock := rfl

@[simp] theorem assertReset_toBlock : s.assertReset.toBlock = Block.reset := rfl
@[simp] theorem assertReset_queue : s.assertReset.queue = [] := rfl
@[simp] theorem assertReset_responses : s.assertReset.responses = s.responses := rfl
@[simp] theorem assertReset_params : s.assertReset.params = s.params := rfl

@[simp] theorem withFetchWord_queue :
    (s.withFetchWord nbits w).queue = tableFrame nbits w :: s.queue := rfl
@[simp] theorem withFetchWord_responses : (s.withFetchWord nbits w).responses = s.responses := rfl
@[simp] theorem withFetchWord_params : (s.withFetchWord nbits w).params = s.params := rfl

/-- Issuing many commands puts their frames behind those already waiting, in the order issued (R66). -/
theorem foldl_issue_eq (s : State) (fs : List Frame) :
    fs.foldl State.issue s = { s with queue := s.queue ++ fs } := by
  induction fs generalizing s with
  | nil => simp
  | cons f fs ih => simp [ih, State.issue]

/-- Taking the next command is taking the head of the queue. -/
theorem nextCommand_eq_some {s s' : State} {f : Frame} (h : s.nextCommand = some (f, s')) :
    s.queue = f :: s'.queue ∧ s'.responses = s.responses ∧ s'.params = s.params := by
  unfold State.nextCommand at h
  split at h
  · cases h
  · next hq => cases h; simp [hq]

end Sys2Proof.Machine
end

