-- ==== Sys2Proof/Tests/Slice0.lean ====
section
/-! SUPPORT. Tests, with results taken from the spec (each names its rule), and the witnesses of the
statements' hypotheses. -/

namespace Sys2Proof.Tests

open Sys2Proof.Machine

/-- A state with a queue and a bound on the sequence length, two lanes and the table. -/
def small (queue : List Frame) (bound : Option Nat) : State :=
  { queue := queue, responses := [], params := { maxSeqLen := bound, extraLanes := 1, permImpl := .lut } }

/-- Is the outcome the next state `s`? A Bool, so that a test is decided by evaluation. -/
def answers (o : Host.Outcome State Fault Refusal) (s : State) : Bool :=
  match o with
  | .next t => decide (t = s)
  | .fault _ => false
  | .refused _ => false

theorem eq_next_of_answers {o : Host.Outcome State Fault Refusal} {s : State}
    (h : answers o s = true) : o = .next s := by
  cases o <;> simp_all [answers]

/-- The state with these responses returned and nothing outstanding. -/
def after (s : State) (responses : List Response) : State :=
  { s with queue := [], responses := responses }

/-! Well-formedness: an ill-formed term for each check. -/

theorem test_wf_refuses_long_encode :
    Instr.wf { maxSeqLen := some 1, extraLanes := 0, permImpl := .lut } (.encode [0, 0]) = false := by
  decide
theorem test_wf_refuses_long_decode :
    Instr.wf { maxSeqLen := some 0, extraLanes := 0, permImpl := .lut } (.decode [0x2800]) = false := by
  decide
theorem test_wf_admits_full_length :
    Instr.wf { maxSeqLen := some 2, extraLanes := 0, permImpl := .lut } (.encode [0, 0]) = true := by
  decide
theorem test_frame_wf_refuses_unassigned_op : Frame.wf ⟨4, []⟩ = false := by decide
theorem test_frame_wf_refuses_permute_count : Frame.wf ⟨0, []⟩ = false := by decide
theorem test_frame_wf_refuses_permute_element : Frame.wf ⟨0, [0x100]⟩ = false := by decide
theorem test_frame_wf_refuses_unpermute_count : Frame.wf ⟨1, [0, 0]⟩ = false := by decide
theorem test_frame_wf_refuses_unpermute_element : Frame.wf ⟨1, [0x1FFFFF]⟩ = false := by decide
theorem test_frame_wf_refuses_encode_element : Frame.wf ⟨2, [0xFF, 0x100]⟩ = false := by decide

/-! Decoding: words written out bit by bit from R61 to R65. -/

theorem test_decode_permute : decode ⟨0b00, [0b10001000]⟩ = .ok (.permute 0x88) := by rfl
theorem test_decode_unpermute : decode ⟨0b01, [0b00001001]⟩ = .ok (.unpermute 0x09) := by rfl
theorem test_decode_encode :
    decode ⟨0b10, [0b10001000, 0b00010001]⟩ = .ok (.encode [0x88, 0x11]) := by rfl
theorem test_decode_decode :
    decode ⟨0b11, [0b000000010100000001001, 0b000000000000001000001]⟩ =
      .ok (.decode [0x2809, 0x41]) := by rfl
theorem test_table_words :
    decodeTableWord 8 0b00 = some (.permute 0) ∧ decodeTableWord 8 0b01 = some (.unpermute 0) ∧
    decodeTableWord 8 0b10 = some (.encode []) ∧ decodeTableWord 8 0b11 = some (.decode []) ∧
    decodeTableWord 8 0b100 = none := by decide
theorem test_step_runs_table_word : step (State.reset.withFetchWord 8 0b01) =
    .next (after State.reset [.ok (.byte 0)]) :=
  eq_next_of_answers (by decide)

/-! One step per command; expected results from 95_test_vectors.md. -/

/-- Section 2.1: 0x02 and 0x04 tell the permutation from the source's own table. -/
theorem test_permute_wiring : step { State.reset with queue := [encode (.permute 0x02)] } =
    .next (after State.reset [.ok (.byte 0x20)]) := eq_next_of_answers (by decide)
theorem test_permute_table : exec (.permute 0x04) (small [] none) =
    .next (after (small [] none) [.ok (.byte 0x10)]) :=
  eq_next_of_answers (by decide)
/-- Section 2.2. -/
theorem test_unpermute_wiring : step { State.reset with queue := [encode (.unpermute 0x0F)] } =
    .next (after State.reset [.ok (.byte 0xE8)]) := eq_next_of_answers (by decide)
theorem test_unpermute_table : exec (.unpermute 0x55) (small [] none) =
    .next (after (small [] none) [.ok (.byte 0xB4)]) :=
  eq_next_of_answers (by decide)
/-- S1, in two lanes with the table. -/
theorem test_encode_s1 : exec (.encode [0x88, 0x11, 0xF0, 0x0F]) (small [] (some 4)) =
    .next (after (small [] (some 4)) [.ok (.codePoints [0x2809, 0x28C0, 0x2847, 0x28B8])]) :=
  eq_next_of_answers (by decide)
/-- S6: the empty sequence. -/
theorem test_encode_empty : exec (.encode []) State.reset =
    .next (after State.reset [.ok (.codePoints [])]) :=
  eq_next_of_answers (by decide)
/-- S4, in two lanes with the table. -/
theorem test_decode_s4 : exec (.decode [0x2809, 0x28C0, 0x2847, 0x28B8]) (small [] (some 4)) =
    .next (after (small [] (some 4)) [.ok (.bytes [0x88, 0x11, 0xF0, 0x0F])]) :=
  eq_next_of_answers (by decide)
/-- Section 2.4: the bad element in the middle, just below the block. -/
theorem test_decode_bad_middle : exec (.decode [0x2809, 0x27FF, 0x28C0]) State.reset =
    .next (after State.reset [.err .outsideBrailleBlock]) :=
  eq_next_of_answers (by decide)

/-- R66: of two commands issued, the first is answered first, and the second is still waiting. -/
theorem test_issue_order :
    step ((State.reset.issue (encode (.permute 0x01))).issue (encode (.permute 0x02))) =
      .next { after State.reset [.ok (.byte 0x80)] with queue := [⟨0b00, [0x02]⟩] } :=
  eq_next_of_answers (by decide)

/-! Witnesses: for each statement with hypotheses, a state and operands that meet them. -/

theorem witness_PermProperties : (0 < 1 ∧ 1 < 10) ∧ (0 < 9 ∧ 9 < 10) := by decide
theorem witness_EncoderIsBijectionOntoBlock :
    inBlock 0x2800 = true ∧ inBlock 0x28FF = true := by decide
theorem witness_ArithmeticNeverOverflows :
    inBlock 0x2800 = true ∧ inBlock 0x28FF = true := by decide
theorem witness_DecoderInvertsEncoder :
    inBlock 0x2800 = true ∧ inBlock 0x28FF = true := by decide
theorem witness_OutOfBlockNeverWraps :
    (0x27FF : CodePoint).toNat ≤ 0x27FF ∧ 0x2900 ≤ (0x2900 : CodePoint).toNat ∧
    (small [] (some 1)).params.admits 1 = true := by decide
theorem witness_EncodeReturnsCodePoints_admitted :
    ∀ m, (small [] (some 2)).params.maxSeqLen = some m → ([0x88, 0x11] : List Byte).length ≤ m := by
  intro m h; cases h; decide
theorem witness_EncodeReturnsCodePoints_overlong :
    (small [] (some 1)).params.maxSeqLen = some 1 ∧ 1 < ([0x88, 0x11] : List Byte).length := by decide
theorem witness_DecodeReturnsBytesOrError_bytes :
    (∀ m, (small [] (some 2)).params.maxSeqLen = some m →
      ([0x2800, 0x28FF] : List CodePoint).length ≤ m) ∧
    (([0x2800, 0x28FF] : List CodePoint).all fun c =>
      decide (0x2800 ≤ c.toNat ∧ c.toNat ≤ 0x28FF)) = true := by
  refine ⟨fun m h => ?_, by decide⟩
  cases h; decide
theorem witness_DecodeReturnsBytesOrError_error :
    (∀ m, (small [] (some 2)).params.maxSeqLen = some m →
      ([0x2800, 0x2900] : List CodePoint).length ≤ m) ∧
    (([0x2800, 0x2900] : List CodePoint).all fun c =>
      decide (0x2800 ≤ c.toNat ∧ c.toNat ≤ 0x28FF)) = false := by
  refine ⟨fun m h => ?_, by decide⟩
  cases h; decide
theorem witness_EncodePayloadFormat : exec (.encode [0x00, 0xFF]) (small [] (some 2)) =
    .next (after (small [] (some 2)) [.ok (.codePoints [0x2800, 0x28FF])]) :=
  eq_next_of_answers (by decide)
theorem witness_EncodeIsElementwise :
    exec (.encode [0x88, 0x00]) State.reset =
      .next (after State.reset [.ok (.codePoints [0x2809, 0x2800])]) ∧
    exec (.encode [0x88, 0xFF]) (small [] none) =
      .next (after (small [] none) [.ok (.codePoints [0x2809, 0x28FF])]) ∧
    ([0x88, 0x00] : List Byte)[0]? = ([0x88, 0xFF] : List Byte)[0]? :=
  ⟨eq_next_of_answers (by decide), eq_next_of_answers (by decide), rfl⟩
theorem witness_CodecRoundTrips :
    State.reset.params.admits ([0x88, 0x00] : List Byte).length = true ∧
    (small [] (some 2)).params.admits ([0x88, 0x00] : List Byte).length = true ∧
    ∀ c ∈ ([0x2800, 0x28FF] : List CodePoint), inBlock c = true :=
  ⟨by decide, by decide, List.all_eq_true.1 (by decide)⟩
theorem witness_OpcodeWordsDecode : (3 : OpWord).toNat < 4 := by decide
theorem witness_EncodeDecodeRoundTrip :
    decode ⟨0b10, [0x00, 0xFF]⟩ = .ok (.encode [0x00, 0xFF]) := by rfl
theorem witness_NonCommandsAreRefused_op :
    (small [⟨4, []⟩] none).queue = [⟨4, []⟩] ∧ 4 ≤ (4 : OpWord).toNat := by decide
theorem witness_NonCommandsAreRefused_count :
    (small [⟨1, [0, 0]⟩] none).queue = [⟨1, [0, 0]⟩] ∧ (1 : OpWord).toNat ≤ 1 ∧
    ([0, 0] : List ElemWord).length ≠ 1 := by decide
theorem witness_NonCommandsAreRefused_element :
    (small [⟨1, [0x100]⟩] none).queue = [⟨1, [0x100]⟩] ∧ (1 : OpWord).toNat ≤ 1 ∧
    ([0x100] : List ElemWord).length = 1 ∧ (∃ e ∈ ([0x100] : List ElemWord), 256 ≤ e.toNat) ∧
    (small [⟨2, [0, 0x100]⟩] none).queue = [⟨2, [0, 0x100]⟩] ∧ (2 : OpWord).toNat = 2 ∧
    ∃ e ∈ ([0, 0x100] : List ElemWord), 256 ≤ e.toNat :=
  ⟨rfl, by decide, rfl, ⟨0x100, .head _, by decide⟩, rfl, rfl, ⟨0x100, .tail _ (.head _), by decide⟩⟩
theorem witness_StepRunsDecodedCommand :
    (small [⟨0, [0x88]⟩] none).queue = [⟨0, [0x88]⟩] ∧
    decode ⟨0, [0x88]⟩ = .ok (.permute 0x88) := ⟨rfl, rfl⟩
theorem witness_PlacedWordRunsNext : decodeTableWord 8 0b11 = some (.decode []) := by decide
theorem witness_IdleStepChangesNothing : State.reset.queue = [] := rfl
theorem witness_CommandsOnlyRespond :
    (∃ t, exec (.permute 0x88) State.reset = .next t) ∧
    (∃ t, exec (.unpermute 0x09) State.reset = .next t) ∧
    (∃ t, exec (.encode [0x88]) (small [] (some 1)) = .next t) ∧
    ∃ t, exec (.decode [0x41]) (small [] (some 1)) = .next t :=
  ⟨⟨_, rfl⟩, ⟨_, rfl⟩, ⟨_, rfl⟩,
    ⟨after (small [] (some 1)) [.err .outsideBrailleBlock], eq_next_of_answers (by decide)⟩⟩
theorem witness_StepAnswersOldestCommand :
    (∃ t, step State.reset = .next t) ∧
    ∃ t, step (small [⟨0, [0x88]⟩] none) = .next t := ⟨⟨_, rfl⟩, ⟨_, rfl⟩⟩
theorem witness_LengthBoundRefusesByName :
    (small [] (some 0)).params.maxSeqLen = some 0 ∧ 0 < ([0x88] : List Byte).length ∧
    0 < ([0x41] : List CodePoint).length ∧ (small [] none).params.maxSeqLen = none := by decide
theorem witness_RunAnswersAllInIssueOrder :
    (small [⟨0b00, [0x88]⟩] (some 1)).queue = ([.permute 0x88] : List Instr).map encode ∧
    (∀ i ∈ ([.permute 0x88] : List Instr), i.wf (small [⟨0b00, [0x88]⟩] (some 1)).params = true) ∧
    ∀ i ∈ ([.encode [0x88], .decode [0x41]] : List Instr),
      i.wf (small [⟨0b00, [0x88]⟩] (some 1)).params = true := by decide
theorem witness_IssueWaitsItsTurn :
    (small [⟨0b00, [0x88]⟩] none).queue ≠ [] ∧
    ∃ t, step (small [⟨0b00, [0x88]⟩] none) = .next t := ⟨by decide, ⟨_, rfl⟩⟩
theorem witness_BlockRecordIsWholeMachineState :
    (small [⟨0b00, [0x88]⟩] none).toBlock =
      (State.reset.issue (encode (.permute 0x88))).toBlock ∧
    (small [⟨0b00, [0x88]⟩] none).params.maxSeqLen =
      (State.reset.issue (encode (.permute 0x88))).params.maxSeqLen ∧
    (∃ t, step (small [⟨0b00, [0x88]⟩] none) = .next t) ∧
    ∃ r, step (small [⟨4, []⟩] none) = .refused r := ⟨by decide, rfl, ⟨_, rfl⟩, ⟨_, rfl⟩⟩
theorem witness_SafeRunNeverStops : (small [encode (.encode [0x88])] (some 1)).Safe := by
  intro f hf
  obtain rfl := List.mem_singleton.1 hf
  exact ⟨.encode [0x88], rfl, rfl⟩
theorem witness_StepKeepsLegalResponses :
    (small [encode (.permute 0x88)] none).Inv ∧
    ∃ t, step (small [encode (.permute 0x88)] none) = .next t :=
  ⟨fun _ hr => absurd hr List.not_mem_nil, ⟨_, rfl⟩⟩
theorem witness_ResponseSameAfterReset :
    Instr.wf (small [] (some 1)).params (.decode [0x41]) = true := by decide
theorem witness_ResponseIgnoresHistory :
    Instr.wf (small [] (some 1)).params (.decode [0x41]) = true ∧
    Instr.wf State.reset.params (.decode [0x41]) = true := by decide
theorem witness_BuildIsNotObservable :
    Params.default.maxSeqLen = (small [] none).params.maxSeqLen ∧
    (∃ t, exec (.encode [0x88]) (small [] none) = .next t) ∧
    Params.maxSeqLen { maxSeqLen := some 0, extraLanes := 6, permImpl := .crossbar } =
      (small [] (some 0)).params.maxSeqLen ∧
    ∃ r, exec (.encode [0x88]) (small [] (some 0)) = .refused r := ⟨rfl, ⟨_, rfl⟩, rfl, ⟨_, rfl⟩⟩
theorem witness_CommandsAreIdempotent :
    ∃ t, exec (.decode [0x41]) State.reset = .next t :=
  ⟨after State.reset [.err .outsideBrailleBlock], eq_next_of_answers (by decide)⟩
theorem witness_OnlyOutOfBlockDecodeErrs :
    (∃ t, exec (.decode [0x27FF]) State.reset = .next t) ∧
    ∃ t, exec (.permute 0x88) State.reset = .next t :=
  ⟨⟨after State.reset [.err .outsideBrailleBlock], eq_next_of_answers (by decide)⟩, ⟨_, rfl⟩⟩
theorem witness_StatusOfResponse :
    (∃ t, exec (.decode [0x2900]) State.reset = .next t) ∧
    ∃ t, exec (.encode []) State.reset = .next t :=
  ⟨⟨after State.reset [.err .outsideBrailleBlock], eq_next_of_answers (by decide)⟩, ⟨_, rfl⟩⟩
theorem witness_BadElementNotIdentified :
    (small [] (some 2)).params.admits ([0x2809, 0x0041] : List CodePoint).length = true ∧
    (small [] (some 2)).params.admits ([0x2900] : List CodePoint).length = true ∧
    (∃ c ∈ ([0x2809, 0x0041] : List CodePoint), inBlock c = false) ∧
    ∃ c ∈ ([0x2900] : List CodePoint), inBlock c = false :=
  ⟨by decide, by decide, ⟨0x41, .tail _ (.head _), by decide⟩, ⟨0x2900, .head _, by decide⟩⟩
theorem witness_ErrorAffectsNoLaterCommand :
    (small [] (some 1)).params.admits ([0x41] : List CodePoint).length = true ∧
    (∃ c ∈ ([0x41] : List CodePoint), inBlock c = false) ∧
    Instr.wf (small [] (some 1)).params (.decode [0x2809]) = true :=
  ⟨by decide, ⟨0x41, .head _, by decide⟩, by decide⟩
theorem witness_AnyCompletionOrderReassembles :
    (small [] (some 2)).params.admits ([0x00, 0xFF] : List Byte).length = true ∧
    List.Perm [(1, 0x28FF), (0, 0x2800)]
      (([0x00, 0xFF] : List Byte).zipIdx.map fun p => (p.2, specEnc1 p.1)) ∧
    (small [] (some 2)).params.admits ([0x2800, 0x41] : List CodePoint).length = true ∧
    List.Perm [(1, .error .outsideBrailleBlock), (0, .ok 0x00)]
      (([0x2800, 0x41] : List CodePoint).zipIdx.map fun p => (p.2, dec1 .lut p.1)) :=
  ⟨by decide, List.Perm.swap _ _ _, by decide, List.Perm.swap _ _ _⟩
theorem witness_StructuralUnitsRealiseCommands :
    (small [] (some 1)).params.admits ([0x88] : List Byte).length = true ∧
    (small [] (some 1)).params.admits ([0x41] : List CodePoint).length = true := by decide
theorem witness_StreamingDecodeRealisesDecode :
    (small [] (some 2)).params.admits ([0x2809, 0x41] : List CodePoint).length = true := by decide

end Sys2Proof.Tests
end

namespace Sys2Proof.Machine

/-! SUPPORT. What a command and a step answer, said once for every case. -/

/-- ENCODE's element-wise map in lanes is the map of R102's encoder. -/
theorem laneMap_enc1_eq (p : Params) (S : List Byte) :
    laneMap p.lanes (enc1 p.permImpl) S = S.map specEnc1 :=
  (laneMap_eq_map (Params.lanes_pos p) _ S).trans (List.map_congr_left fun b _ => enc1_eq p.permImpl b)

/-- An admitted command completes with the reply of the spec and changes nothing else (R66). -/
theorem exec_of_wf {i : Instr} {s : State} (h : i.wf s.params = true) :
    exec i s = .next (s.respond (reply i)) := by
  cases i with
  | permute b => simp [exec, execPermute, reply, permUnit_eq]
  | unpermute c => simp [exec, execUnpermute, reply, unpermUnit_eq]
  | encode S =>
    have hn : s.params.admits S.length = true := h
    simp [exec, execEncode, hn, reply, laneMap_enc1_eq]
  | decode T =>
    have hn : s.params.admits T.length = true := h
    simp only [exec, execDecode, hn, if_true, laneMap_eq_map (Params.lanes_pos _), reply]
    cases hall : T.all inBlock with
    | true => simp [wholeCall_dec1_of_all _ hall]
    | false => simp [wholeCall_dec1_of_not_all _ hall]

/-- A command that is not admitted is refused by its length (R71). -/
theorem exec_of_not_wf {i : Instr} {s : State} (h : i.wf s.params = false) :
    exec i s = .refused (.overLength i.length) := by
  cases i with
  | permute b => cases h
  | unpermute c => cases h
  | encode S =>
    have hn : s.params.admits S.length = false := h
    simp [exec, execEncode, hn, Instr.length]
  | decode T =>
    have hn : s.params.admits T.length = false := h
    simp [exec, execDecode, hn, Instr.length]

/-- Of the parameters, admission reads `MAX_SEQ_LEN` alone (R71). -/
theorem wf_congr_maxSeqLen {p q : Params} (h : p.maxSeqLen = q.maxSeqLen) (i : Instr) :
    i.wf p = i.wf q := by
  have hadmits (n : Nat) : p.admits n = q.admits n := by simp [Params.admits, h]
  cases i with
  | permute b => rfl
  | unpermute c => rfl
  | encode S => exact hadmits S.length
  | decode T => exact hadmits T.length

/-- An idle step (log 6). -/
theorem step_of_queue_nil {s : State} (h : s.queue = []) : step s = .next s := by
  simp [step, State.nextCommand, h]

/-- The oldest frame is a command: it is performed on what is left of the queue. -/
theorem step_of_decode_ok {s : State} {f : Frame} {rest : List Frame} {i : Instr}
    (hq : s.queue = f :: rest) (hf : decode f = .ok i) :
    step s = exec i { s with queue := rest } := by
  simp [step, State.nextCommand, hq, hf]

/-- The oldest frame is no command: it is refused by name. -/
theorem step_of_decode_error {s : State} {f : Frame} {rest : List Frame} {e : FrameError}
    (hq : s.queue = f :: rest) (hf : decode f = .error e) :
    step s = .refused (.notACommand e) := by
  simp [step, State.nextCommand, hq, hf]

/-- The oldest frame is an admitted command: it leaves the queue and its reply is returned (R66). -/
theorem step_of_wf {s : State} {f : Frame} {rest : List Frame} {i : Instr}
    (hq : s.queue = f :: rest) (hf : decode f = .ok i) (h : i.wf s.params = true) :
    step s = .next ({ s with queue := rest }.respond (reply i)) :=
  (step_of_decode_ok hq hf).trans (exec_of_wf h)

/-- The oldest frame is a command that is not admitted: it is refused by its length (R71). -/
theorem step_of_not_wf {s : State} {f : Frame} {rest : List Frame} {i : Instr}
    (hq : s.queue = f :: rest) (hf : decode f = .ok i) (h : i.wf s.params = false) :
    step s = .refused (.overLength i.length) :=
  (step_of_decode_ok hq hf).trans (exec_of_not_wf h)

/-! SUPPORT. What a streaming DECODE holds and answers. -/

/-- The error line of a decoder slice is the range test (R67, R106). -/
theorem brailleDecoderSlice_fst (impl : PermImpl) (c : CodePoint) :
    (brailleDecoderSlice impl c).1 = !inBlock c := by
  cases h : inBlock c with
  | true => simp [brailleDecoderSlice, dec1_of_inBlock impl h]
  | false => simp [brailleDecoderSlice, dec1_of_not_inBlock impl h]

/-- The data line of a decoder slice, for a value in the block (R67, R106). -/
theorem brailleDecoderSlice_snd_of_inBlock (impl : PermImpl) {c : CodePoint}
    (h : inBlock c = true) : (brailleDecoderSlice impl c).2 = unperm (c.setWidth 8) := by
  simp [brailleDecoderSlice, dec1_of_inBlock impl h]

/-- What the streaming decoder holds after a sequence, from any state in flight: the data lines, newest
first, on those it held, and the error-seen bit set when some element lay out of the block. -/
theorem foldl_accept_eq (impl : PermImpl) (T : List CodePoint) (st : InFlight) :
    T.foldl (InFlight.accept impl) st =
      { held := (T.map fun c => (brailleDecoderSlice impl c).2).reverse ++ st.held,
        errorSeen := st.errorSeen || !T.all inBlock } := by
  induction T generalizing st with
  | nil => simp
  | cons c T ih =>
    rw [List.foldl_cons, ih]
    simp [InFlight.accept, brailleDecoderSlice_fst, Bool.or_assoc]

/-- The streaming decoder gives DECODE's reply: the bytes it held back are delivered only when every
element lay in the block, and so a free value of a data line never is (R156, D20). -/
theorem streamDecode_eq_reply (impl : PermImpl) (T : List CodePoint) :
    streamDecode impl T = reply (.decode T) := by
  cases hall : T.all inBlock with
  | false => simp [streamDecode, foldl_accept_eq, reply, hall]
  | true =>
    have hdata : T.map (fun c => (brailleDecoderSlice impl c).2) =
        T.map fun c => unperm (c.setWidth 8) :=
      List.map_congr_left fun c hc =>
        brailleDecoderSlice_snd_of_inBlock impl (List.all_eq_true.1 hall c hc)
    simp [streamDecode, foldl_accept_eq, reply, hall, hdata]

/-! The statements of 10_state.md. -/

/-- Settles O40: in each state an admitted command is answered by `reply`, which reads no state. -/
theorem responseIgnoresHistory : Obligations.ResponseIgnoresHistory := by
  intro i s s' h h'
  exact ⟨reply i, exec_of_wf h, exec_of_wf h'⟩

/-- Settles O49: the fold over the elements and the atomic command both give `reply`. -/
theorem streamingDecodeRealisesDecode : Obligations.StreamingDecodeRealisesDecode := by
  intro s impl T hn
  rw [streamDecode_eq_reply]
  exact exec_of_wf (i := .decode T) hn

/-- Settles O51: which case of a step applies is fixed by the queue and by admission, which reads
`MAX_SEQ_LEN` alone; in each case the two states answer alike. -/
theorem blockRecordIsWholeMachineState : Obligations.BlockRecordIsWholeMachineState := by
  intro s s' hblock hmax
  have hqueue : s'.queue = s.queue := congrArg Block.queue hblock.symm
  cases hs : s.queue with
  | nil =>
    rw [step_of_queue_nil hs, step_of_queue_nil (hqueue.trans hs)]
    refine ⟨fun t ht => ?_, nofun⟩
    cases ht
    exact ⟨s', [], rfl, hblock.symm, by simp, by simp⟩
  | cons f rest =>
    have hs' := hqueue.trans hs
    cases hf : decode f with
    | error e =>
      rw [step_of_decode_error hs hf, step_of_decode_error hs' hf]
      exact ⟨nofun, fun _ hr => hr⟩
    | ok i =>
      have hwf : i.wf s'.params = i.wf s.params := wf_congr_maxSeqLen hmax.symm i
      cases hi : i.wf s.params with
      | false =>
        rw [step_of_not_wf hs hf hi, step_of_not_wf hs' hf (hwf.trans hi)]
        exact ⟨nofun, fun _ hr => hr⟩
      | true =>
        rw [step_of_wf hs hf hi, step_of_wf hs' hf (hwf.trans hi)]
        refine ⟨fun t ht => ?_, nofun⟩
        cases ht
        exact ⟨_, [reply i], rfl, rfl, rfl, rfl⟩

end Sys2Proof.Machine

namespace Sys2Proof.Machine

/-! SUPPORT. When a command completes and when it is refused, and any order of completion. -/

/-- A command that answers a next state is an admitted one, and it answers its reply alone. -/
theorem exec_eq_next_iff {i : Instr} {s t : State} :
    exec i s = .next t ↔ i.wf s.params = true ∧ t = s.respond (reply i) := by
  cases h : i.wf s.params with
  | true => simp [exec_of_wf h, eq_comm]
  | false => simp [exec_of_not_wf h]

/-- A command that is refused is one not admitted, and it is refused by its length (R71). -/
theorem exec_eq_refused_iff {i : Instr} {s : State} {r : Refusal} :
    exec i s = .refused r ↔ i.wf s.params = false ∧ r = .overLength i.length := by
  cases h : i.wf s.params with
  | true => simp [exec_of_wf h]
  | false => simp [exec_of_not_wf h, eq_comm]

/-- The element results, completed in any order, reassemble to the outputs in input order (R155). -/
theorem reassemble_of_perm {α β : Type} {f : α → β} {S : List α} {done : List (Nat × β)}
    (hperm : done.Perm (S.zipIdx.map fun p => (p.2, f p.1))) :
    reassemble S.length done = S.map f := by
  have hmem (i : Nat) (y : β) : (i, y) ∈ done ↔ ∃ a, S[i]? = some a ∧ f a = y := by
    simp [hperm.mem_iff, List.mem_zipIdx_iff_getElem?]
  refine reassemble_eq_map (fun ⟨i, y⟩ hp => ?_) fun i hi => ?_
  · obtain ⟨a, ha, hy⟩ := (hmem i y).1 hp
    simp [ha, hy]
  · exact ⟨(i, f S[i]), (hmem i _).2 ⟨S[i], List.getElem?_eq_getElem hi, rfl⟩, rfl⟩

/-! The statements of 20_memory.md. -/

/-- Settles O30: the one response is the command's reply. -/
theorem commandsOnlyRespond : Obligations.CommandsOnlyRespond := by
  intro i s t h
  exact ⟨reply i, (exec_eq_next_iff.1 h).2⟩

/-- Settles O41: admission reads `MAX_SEQ_LEN` alone, and the reply and the refusal read no
parameter. -/
theorem buildIsNotObservable : Obligations.BuildIsNotObservable := by
  intro i s p hmax
  have hwf : i.wf p = i.wf s.params := wf_congr_maxSeqLen hmax i
  refine ⟨fun t ht => ?_, fun r hr => ?_⟩
  · obtain ⟨hi, rfl⟩ := exec_eq_next_iff.1 ht
    exact exec_eq_next_iff.2 ⟨hwf.trans hi, rfl⟩
  · obtain ⟨hi, rfl⟩ := exec_eq_refused_iff.1 hr
    exact exec_eq_refused_iff.2 ⟨hwf.trans hi, rfl⟩

/-- Settles O42: a completed command leaves the parameters, so it is admitted again, and its reply
reads no state. -/
theorem commandsAreIdempotent : Obligations.CommandsAreIdempotent := by
  intro i s t h
  obtain ⟨hi, rfl⟩ := exec_eq_next_iff.1 h
  exact ⟨reply i, rfl, exec_of_wf (s := s.respond (reply i)) hi⟩

/-- Settles O47: the results reassemble to the element-wise map, from which `reply` is made. -/
theorem anyCompletionOrderReassembles : Obligations.AnyCompletionOrderReassembles := by
  refine fun s => ⟨fun S done hn hdone => ?_, fun T impl done hn hdone => ?_⟩
  · rw [reassemble_of_perm hdone]
    exact exec_of_wf (i := .encode S) hn
  · rw [reassemble_of_perm hdone, exec_of_wf (i := .decode T) hn]
    cases hall : T.all inBlock with
    | true => simp [reply, hall, wholeCall_dec1_of_all impl hall, State.respond]
    | false => simp [reply, hall, wholeCall_dec1_of_not_all impl hall, State.respond]

end Sys2Proof.Machine

namespace Sys2Proof.Machine

/-! SUPPORT. What the reader of command text (R72) answers to the text the writer writes. -/

/-- Text that holds something, and neither the space nor the comma that separate texts. -/
structure PlainText (t : List Char) : Prop where
  ne_nil : t ≠ []
  no_space : ' ' ∉ t
  no_comma : ',' ∉ t

/-- One digit written is read back. -/
theorem digitValue_hexDigit {d : Nat} (h : d < 16) : digitValue (hexDigit d) = some d := by
  revert d; decide

/-- Of the characters the writer of digits uses none is a space or a comma. -/
theorem hexDigit_ne_separator {d : Nat} (h : d < 16) : ' ' ≠ hexDigit d ∧ ',' ≠ hexDigit d := by
  revert d; decide

/-- A row of digits is read piece by piece. -/
theorem digitsAfter_append (radix acc : Nat) (xs ys : List Char) :
    digitsAfter radix acc (xs ++ ys) =
      (digitsAfter radix acc xs).bind fun a => digitsAfter radix a ys := by
  induction xs generalizing acc with
  | nil => rfl
  | cons x xs ih =>
    simp only [List.cons_append, digitsAfter]
    cases digitValue x with
    | none => rfl
    | some d =>
      by_cases hd : d < radix
      · simp [hd, ih]
      · simp [hd]

/-- The last `k` hexadecimal digits written of a number are read as the number they write. -/
theorem digitsAfter_hexDigits (acc k n : Nat) :
    digitsAfter 16 acc (hexDigits k n) = some (acc * 16 ^ k + n % 16 ^ k) := by
  induction k generalizing n with
  | zero => simp [hexDigits, digitsAfter, Nat.mod_one]
  | succ k ih =>
    have hd : n % 16 < 16 := Nat.mod_lt _ (by decide)
    simp only [hexDigits, digitsAfter_append, ih, Option.bind_some, digitsAfter,
      digitValue_hexDigit hd, if_pos hd]
    rw [Nat.pow_succ', Nat.mod_mul]
    congr 1
    ring

/-- A literal of at least one hexadecimal digit is read as the number it writes. -/
theorem literal_hexDigits (k n : Nat) :
    literal ('0' :: 'x' :: hexDigits (k + 1) n) = some (n % 16 ^ (k + 1)) := by
  have hdigits : digits 16 (hexDigits (k + 1) n) = digitsAfter 16 0 (hexDigits (k + 1) n) := by
    cases h : hexDigits (k + 1) n with
    | nil => simp [hexDigits] at h
    | cons c cs => rfl
  rw [literal, hdigits, digitsAfter_hexDigits]
  simp

/-- A byte written is read back. -/
theorem byteOfText_textOfByte (b : Byte) : byteOfText (textOfByte b) = some b := by
  have hb : b.toNat < 256 := b.isLt
  have hlit : literal (textOfByte b) = some b.toNat := by
    rw [textOfByte, literal_hexDigits, Nat.mod_eq_of_lt (by omega)]
  simp [byteOfText, hlit, hb]

/-- A code point written is read back: six digits hold its 21 bits. -/
theorem codePointOfText_textOfCodePoint (c : CodePoint) :
    codePointOfText (textOfCodePoint c) = some c := by
  have hc : c.toNat < 2 ^ 21 := c.isLt
  have hlit : codePointNumber (textOfCodePoint c) = some c.toNat := by
    rw [textOfCodePoint, codePointNumber, literal_hexDigits, Nat.mod_eq_of_lt (by omega)]
    simp
  simp only [codePointOfText, hlit, if_pos hc, BitVec.ofNat_toNat, BitVec.setWidth_eq]

/-- A row of hexadecimal digits holds no space and no comma. -/
theorem not_mem_hexDigits (k n : Nat) : ' ' ∉ hexDigits k n ∧ ',' ∉ hexDigits k n := by
  induction k generalizing n with
  | zero => simp [hexDigits]
  | succ k ih =>
    have hd := hexDigit_ne_separator (Nat.mod_lt n (by decide : 0 < 16))
    simp [hexDigits, ih, hd]

theorem plainText_hexLiteral (k n : Nat) : PlainText ('0' :: 'x' :: hexDigits k n) := by
  constructor <;> simp [not_mem_hexDigits]

theorem plainText_textOfByte (b : Byte) : PlainText (textOfByte b) := plainText_hexLiteral _ _

theorem plainText_textOfCodePoint (c : CodePoint) : PlainText (textOfCodePoint c) :=
  plainText_hexLiteral _ _

/-! Trimming. -/

theorem dropWhile_space_eq_self {t : List Char} (h : t.head? ≠ some ' ') :
    t.dropWhile (· == ' ') = t := by
  cases t with
  | nil => rfl
  | cons c t =>
    have hc : c ≠ ' ' := by simpa using h
    simp [hc]

/-- Text with no space at either end is left as it is. -/
theorem trim_eq_self {t : List Char} (hhead : t.head? ≠ some ' ') (hlast : t.getLast? ≠ some ' ') :
    trim t = t := by
  have hlast' : t.reverse.head? ≠ some ' ' := by rwa [List.head?_reverse]
  rw [trim, dropWhile_space_eq_self hhead, dropWhile_space_eq_self hlast', List.reverse_reverse]

/-- A space before a text is dropped. -/
theorem trim_space_cons (t : List Char) : trim (' ' :: t) = trim t := rfl

theorem PlainText.head?_ne {t : List Char} (h : PlainText t) : t.head? ≠ some ' ' :=
  fun hc => h.no_space (List.mem_of_mem_head? hc)

theorem PlainText.getLast?_ne {t : List Char} (h : PlainText t) : t.getLast? ≠ some ' ' :=
  fun hc => h.no_space (List.mem_of_mem_getLast? hc)

theorem PlainText.trim_eq {t : List Char} (h : PlainText t) : trim t = t :=
  trim_eq_self h.head?_ne h.getLast?_ne

/-- Text that begins with no space does not vanish. -/
theorem trim_cons_ne_nil {c : Char} (t : List Char) (h : c ≠ ' ') : trim (c :: t) ≠ [] := by
  have hdrop : (c :: t).dropWhile (· == ' ') = c :: t := dropWhile_space_eq_self (by simpa using h)
  simp only [trim, hdrop, ne_eq, List.reverse_eq_nil_iff, List.dropWhile_eq_nil_iff]
  exact fun hall => h (by simpa using hall c (by simp))

/-! The pieces between commas. -/

/-- A piece with no comma in it, and the comma behind it, are split off. -/
theorem commaPieces_append_comma {p : List Char} (h : ',' ∉ p) (t : List Char) :
    commaPieces (p ++ ',' :: t) = p :: commaPieces t := by
  induction p with
  | nil => simp [commaPieces]
  | cons c p ih =>
    obtain ⟨hc, hp⟩ : ',' ≠ c ∧ ',' ∉ p := by simpa using h
    simp [commaPieces, hc.symm, ih hp]

/-- Text with no comma in it is one piece. -/
theorem commaPieces_of_no_comma {p : List Char} (h : ',' ∉ p) : commaPieces p = [p] := by
  induction p with
  | nil => rfl
  | cons c p ih =>
    obtain ⟨hc, hp⟩ : ',' ≠ c ∧ ',' ∉ p := by simpa using h
    simp [commaPieces, hc.symm, ih hp]

/-- There is always a first piece. -/
theorem commaPieces_ne_nil (t : List Char) : commaPieces t ≠ [] := by
  cases t with
  | nil => simp [commaPieces]
  | cons c t =>
    rw [commaPieces]
    split
    · simp
    · split <;> simp

/-- A space before the first piece does not show once the pieces are trimmed. -/
theorem map_trim_commaPieces_space_cons (t : List Char) :
    (commaPieces (' ' :: t)).map trim = (commaPieces t).map trim := by
  obtain ⟨p, ps, h⟩ := List.exists_cons_of_ne_nil (commaPieces_ne_nil t)
  rw [commaPieces, if_neg (by decide), h]
  simp [trim_space_cons]

/-- Plain texts joined by the writer are the trimmed pieces the reader finds. -/
theorem map_trim_commaPieces_commaJoin {p : List Char} {ps : List (List Char)}
    (h : ∀ q ∈ p :: ps, PlainText q) : (commaPieces (commaJoin (p :: ps))).map trim = p :: ps := by
  induction ps generalizing p with
  | nil =>
    have hp : PlainText p := h p (by simp)
    simp [commaJoin, commaPieces_of_no_comma hp.no_comma, hp.trim_eq]
  | cons q qs ih =>
    have hp : PlainText p := h p (by simp)
    rw [commaJoin, commaPieces_append_comma hp.no_comma, List.map_cons, hp.trim_eq,
      map_trim_commaPieces_space_cons, ih fun r hr => h r (by simp [hr])]
    simp

/-! Sequences and commands. -/

theorem inBrackets_brackets (t : List Char) : inBrackets ('[' :: t ++ [']']) = some t := by
  simp [inBrackets]

/-- The joined text of a sequence that is not empty does not vanish when trimmed. -/
theorem trim_commaJoin_ne_nil {p : List Char} (h : PlainText p) (ps : List (List Char)) :
    trim (commaJoin (p :: ps)) ≠ [] := by
  obtain ⟨c, cs, rfl⟩ := List.exists_cons_of_ne_nil h.ne_nil
  have hc : c ≠ ' ' := fun hc => h.no_space (by simp [hc])
  cases ps with
  | nil => exact trim_cons_ne_nil _ hc
  | cons q qs => exact trim_cons_ne_nil _ hc

/-- Elements each read back from their texts are read back in order. -/
theorem mapM_map_eq_some {α : Type} {element : List Char → Option α} {text : α → List Char}
    (read : ∀ x, element (text x) = some x) (xs : List α) :
    (xs.map text).mapM element = some xs := by
  induction xs with
  | nil => rfl
  | cons x xs ih => simp [read, ih]

/-- A sequence written element by element is read back, when each element is written as plain
text that is read back. -/
theorem sequenceOfText_brackets {α : Type} {element : List Char → Option α} {text : α → List Char}
    (plain : ∀ x, PlainText (text x)) (read : ∀ x, element (text x) = some x) (xs : List α) :
    sequenceOfText element ('[' :: commaJoin (xs.map text) ++ [']']) = some xs := by
  rw [sequenceOfText, inBrackets_brackets]
  cases xs with
  | nil => rfl
  | cons x xs =>
    have hne : trim (commaJoin ((x :: xs).map text)) ≠ [] := trim_commaJoin_ne_nil (plain x) _
    have hpieces : (commaPieces (commaJoin ((x :: xs).map text))).map trim = (x :: xs).map text :=
      map_trim_commaPieces_commaJoin (List.forall_mem_map (l := x :: xs).2 fun y _ => plain y)
    have hread := mapM_map_eq_some read (x :: xs)
    rw [← hpieces, List.mapM_map] at hread
    simp only [beq_iff_eq, if_neg hne]
    exact hread

/-- The operand written for a command is read back by its operation (R61, R72). -/
theorem commandOfOperand_textOfOperand (i : Instr) :
    commandOfOperand i.op (textOfOperand i) = some i := by
  cases i with
  | permute b => simp [commandOfOperand, Instr.op, textOfOperand, byteOfText_textOfByte]
  | unpermute c => simp [commandOfOperand, Instr.op, textOfOperand, byteOfText_textOfByte]
  | encode S =>
    have h := sequenceOfText_brackets plainText_textOfByte byteOfText_textOfByte S
    simp only [commandOfOperand, Instr.op, textOfOperand, h, Option.map_some]
  | decode T =>
    have h := sequenceOfText_brackets plainText_textOfCodePoint codePointOfText_textOfCodePoint T
    simp only [commandOfOperand, Instr.op, textOfOperand, h, Option.map_some]

/-- The operand written for a command is not empty and has no space at either end. -/
theorem textOfOperand_ends (i : Instr) : (textOfOperand i).head? ≠ some ' ' ∧
    (textOfOperand i).getLast? ≠ some ' ' ∧ textOfOperand i ≠ [] := by
  have plain {t : List Char} (h : PlainText t) :
      t.head? ≠ some ' ' ∧ t.getLast? ≠ some ' ' ∧ t ≠ [] := ⟨h.head?_ne, h.getLast?_ne, h.ne_nil⟩
  cases i with
  | permute b => exact plain (plainText_textOfByte b)
  | unpermute c => exact plain (plainText_textOfByte c)
  | encode S => simp [textOfOperand, List.getLast?_cons]
  | decode T => simp [textOfOperand, List.getLast?_cons]

/-- A mnemonic, a space and an operand are taken apart there. -/
theorem assemble_mnemonic_space {o : Op} {t : List Char} (hhead : t.head? ≠ some ' ')
    (hlast : t.getLast? ≠ some ' ') (hne : t ≠ []) :
    assemble (opMnemonic o ++ ' ' :: t) = commandOfOperand o t := by
  have htrim : trim (opMnemonic o ++ ' ' :: t) = opMnemonic o ++ ' ' :: t := by
    obtain ⟨c, cs, rfl⟩ := List.exists_cons_of_ne_nil hne
    refine trim_eq_self (by cases o <;> simp [opMnemonic]) ?_
    simpa using hlast
  have htake : (opMnemonic o ++ ' ' :: t).takeWhile (· != ' ') = opMnemonic o := by
    cases o <;> rfl
  have hdrop : (opMnemonic o ++ ' ' :: t).dropWhile (· != ' ') = ' ' :: t := by
    cases o <;> rfl
  have hop : opOfMnemonic (opMnemonic o) = some o := by cases o <;> rfl
  simp only [assemble, htrim, htake, hdrop, hop, trim_space_cons, trim_eq_self hhead hlast]

/-- Settles O26: the text splits at its one space, and mnemonic and operand are each read back. -/
theorem commandTextRoundTrip : Obligations.CommandTextRoundTrip := by
  intro i
  obtain ⟨hhead, hlast, hne⟩ := textOfOperand_ends i
  exact (assemble_mnemonic_space hhead hlast hne).trans (commandOfOperand_textOfOperand i)

/-- Settles O25: the reader is run on each of the rule's five lines. -/
theorem commandTextExamples : Obligations.CommandTextExamples := by
  refine ⟨?_, ?_, ?_, ?_, ?_⟩ <;> decide

end Sys2Proof.Machine

namespace Sys2Proof

/-! SUPPORT. The frames that decode are the frames the encoder writes. -/

/-- An operation select value selects an operation only when it is that operation's word (R61). -/
theorem opOfWord_eq_some_iff {w : OpWord} {o : Op} : opOfWord w = some o ↔ w = o.word := by
  refine ⟨fun h => BitVec.eq_of_toNat_eq ?_, fun h => by simp [h]⟩
  unfold opOfWord at h
  split at h <;> cases h <;> assumption

/-- The values that select no operation are those above 3 (R69). -/
theorem opOfWord_eq_none_iff {w : OpWord} : opOfWord w = none ↔ 4 ≤ w.toNat := by
  constructor
  · intro h
    by_contra hlt
    interval_cases hw : w.toNat <;> simp [opOfWord, hw] at h
  · intro h
    unfold opOfWord
    split
    · omega
    · omega
    · omega
    · omega
    · rfl

/-- An element word reads as a byte exactly when it is the byte's word. -/
theorem byteOfElem_eq_some_iff {e : ElemWord} {b : Byte} :
    byteOfElem e = some b ↔ e = elemOfByte b :=
  ⟨fun h => (byteOfElem_eq_some h).symm, fun h => h ▸ byteOfElem_elemOfByte b⟩

/-- Element words read as bytes exactly when they are the bytes' words, in order. -/
theorem bytesOfElems_eq_some_iff {es : List ElemWord} {S : List Byte} :
    bytesOfElems es = some S ↔ es = S.map elemOfByte := by
  induction es generalizing S with
  | nil => cases S <;> simp [bytesOfElems]
  | cons e es ih =>
    cases S with
    | nil =>
      rw [bytesOfElems]
      split <;> simp
    | cons b bs =>
      rw [List.map_cons, List.cons.injEq, ← byteOfElem_eq_some_iff, ← ih, bytesOfElems]
      cases byteOfElem e <;> cases bytesOfElems es <;> simp

/-- The operand of PERMUTE and UNPERMUTE is one byte's word (R70). -/
theorem decodeByteOperand_eq_ok_iff {es : List ElemWord} {b : Byte} :
    decodeByteOperand es = .ok b ↔ es = [elemOfByte b] := by
  unfold decodeByteOperand
  split
  · next e =>
    rw [List.cons.injEq, ← byteOfElem_eq_some_iff]
    cases byteOfElem e <;> simp
  · next hes => simpa using hes (elemOfByte b)

/-- A byte command is read from a frame exactly when its operand is. -/
theorem map_command_eq_ok_iff {x : Except FrameError Byte} {g : Byte → Instr} {i : Instr} :
    x.map g = .ok i ↔ ∃ b, x = .ok b ∧ g b = i := by
  cases x <;> simp [Except.map]

/-- A frame is known from the operation it selects and its elements. -/
theorem frame_eq {f : Frame} {o : Op} {es : List ElemWord} (hop : opOfWord f.op = some o)
    (hes : f.elems = es) : f = { op := o.word, elems := es } :=
  congrArg₂ Frame.mk (opOfWord_eq_some_iff.1 hop) hes

/-- A frame decodes to a command exactly when it is the frame the encoder writes for it. -/
theorem decode_eq_ok_iff {f : Frame} {i : Instr} : decode f = .ok i ↔ f = encode i := by
  constructor
  · intro h
    unfold decode at h
    split at h
    case h_1 hop =>
      obtain ⟨b, hb, rfl⟩ := map_command_eq_ok_iff.1 h
      exact frame_eq hop (decodeByteOperand_eq_ok_iff.1 hb)
    case h_2 hop =>
      obtain ⟨b, hb, rfl⟩ := map_command_eq_ok_iff.1 h
      exact frame_eq hop (decodeByteOperand_eq_ok_iff.1 hb)
    case h_3 hop =>
      split at h
      · next S hS =>
        cases h
        exact frame_eq hop (bytesOfElems_eq_some_iff.1 hS)
      · cases h
    case h_4 hop =>
      cases h
      exact frame_eq hop rfl
    case h_5 => cases h
  · rintro rfl
    cases i with
    | permute b => exact map_command_eq_ok_iff.2 ⟨b, decodeByteOperand_eq_ok_iff.2 rfl, rfl⟩
    | unpermute c => exact map_command_eq_ok_iff.2 ⟨c, decodeByteOperand_eq_ok_iff.2 rfl, rfl⟩
    | encode S =>
      have hS : bytesOfElems (S.map elemOfByte) = some S := bytesOfElems_eq_some_iff.2 rfl
      simp [decode, encode, Instr.op, encodeElems, hS]
    | decode T => rfl

/-- Decoding undoes encoding. -/
@[simp] theorem decode_encode (i : Instr) : decode (encode i) = .ok i := decode_eq_ok_iff.2 rfl

/-! SUPPORT. The frames that do not decode. -/

theorem opOfWord_of_le_one {w : OpWord} (h : w.toNat ≤ 1) :
    opOfWord w = some .permute ∨ opOfWord w = some .unpermute := by
  obtain hw | hw : w.toNat = 0 ∨ w.toNat = 1 := by omega
  · simp [opOfWord, hw]
  · simp [opOfWord, hw]

/-- An operation value that selects nothing is refused as such (R69). -/
theorem decode_of_op_not_assigned {f : Frame} (h : 4 ≤ f.op.toNat) :
    decode f = .error (.opNotAssigned f.op) := by
  simp [decode, opOfWord_eq_none_iff.2 h]

/-- A PERMUTE or UNPERMUTE fails to decode as its operand does. -/
theorem decode_of_byte_operand_error {f : Frame} {e : FrameError} (hop : f.op.toNat ≤ 1)
    (h : decodeByteOperand f.elems = .error e) : decode f = .error e := by
  obtain ho | ho := opOfWord_of_le_one hop
  · simp [decode, ho, h, Except.map]
  · simp [decode, ho, h, Except.map]

/-- A byte operand of more or fewer elements than one is refused by their number (R70). -/
theorem decodeByteOperand_of_length_ne_one {es : List ElemWord} (h : es.length ≠ 1) :
    decodeByteOperand es = .error (.elementCount es.length) := by
  unfold decodeByteOperand
  split
  · exact absurd rfl h
  · rfl

/-- Element words, one of them too large for a byte, do not read as bytes (R62). -/
theorem bytesOfElems_eq_none {es : List ElemWord} (h : ∃ e ∈ es, 256 ≤ e.toNat) :
    bytesOfElems es = none := by
  obtain ⟨e, he, hlarge⟩ := h
  rw [← Option.not_isSome_iff_eq_none, bytesOfElems_isSome, List.all_eq_true]
  intro hall
  have hsmall : e.toNat < 256 := of_decide_eq_true (hall e he)
  omega

/-- A byte operand whose one element is too large for a byte is refused (R62). -/
theorem decodeByteOperand_of_large {e : ElemWord} (h : 256 ≤ e.toNat) :
    decodeByteOperand [e] = .error .notAByte := by
  simp [decodeByteOperand, byteOfElem, Nat.not_lt.2 h]

/-! SUPPORT. The well-formed frames. -/

/-- Element words that hold bytes are the words of those bytes. -/
theorem exists_eq_map_elemOfByte {es : List ElemWord} (h : es.all ElemWord.isByte = true) :
    ∃ S : List Byte, es = S.map elemOfByte := by
  rw [← bytesOfElems_isSome, Option.isSome_iff_exists] at h
  exact h.imp fun S hS => bytesOfElems_eq_some_iff.1 hS

/-- A well-formed byte operand is the word of one byte. -/
theorem exists_eq_singleton_elemOfByte {es : List ElemWord}
    (h : (es.length == 1 && es.all ElemWord.isByte) = true) : ∃ b, es = [elemOfByte b] := by
  obtain ⟨hlen, hall⟩ := Bool.and_eq_true_iff.1 h
  obtain ⟨e, rfl⟩ := List.length_eq_one_iff.1 (beq_iff_eq.1 hlen)
  obtain ⟨b, hb⟩ := Option.isSome_iff_exists.1
    ((byteOfElem_isSome e).trans (List.all_eq_true.1 hall e (by simp)))
  exact ⟨b, by rw [byteOfElem_eq_some_iff.1 hb]⟩

/-- The well-formed frames are the frames of the commands. -/
theorem wf_iff_exists_encode {f : Frame} : f.wf = true ↔ ∃ i, f = encode i := by
  constructor
  · intro h
    unfold Frame.wf at h
    split at h
    case h_1 hop =>
      obtain ⟨b, hb⟩ := exists_eq_singleton_elemOfByte h
      exact ⟨.permute b, frame_eq (by simp [opOfWord, hop, Instr.op]) hb⟩
    case h_2 hop =>
      obtain ⟨c, hc⟩ := exists_eq_singleton_elemOfByte h
      exact ⟨.unpermute c, frame_eq (by simp [opOfWord, hop, Instr.op]) hc⟩
    case h_3 hop =>
      obtain ⟨S, hS⟩ := exists_eq_map_elemOfByte h
      exact ⟨.encode S, frame_eq (by simp [opOfWord, hop, Instr.op]) hS⟩
    case h_4 hop => exact ⟨.decode f.elems, frame_eq (by simp [opOfWord, hop, Instr.op]) rfl⟩
    case h_5 => cases h
  · rintro ⟨i, rfl⟩
    cases i with
    | permute b => exact Laws.EncodedFrame.permute b
    | unpermute c => exact Laws.EncodedFrame.unpermute c
    | encode S => exact Laws.EncodedFrame.encode S
    | decode T => exact Laws.EncodedFrame.decode T

end Sys2Proof

namespace Sys2Proof.Machine

/-! The statements of 30_encoding.md about frames. -/

/-- Settles O22: only the encoder's own frame of a command decodes to it. -/
theorem encodeDecodeRoundTrip : Obligations.EncodeDecodeRoundTrip :=
  fun _ _ h => (decode_eq_ok_iff.1 h).symm

/-- Settles O23: both are the frames the encoder writes. -/
theorem decodeAcceptsWellFormedFrames : Obligations.DecodeAcceptsWellFormedFrames := by
  intro f
  rw [wf_iff_exists_encode]
  exact exists_congr fun i => decode_eq_ok_iff

/-- Settles O24: a step refuses by the name the decoder gives. -/
theorem nonCommandsAreRefused : Obligations.NonCommandsAreRefused := by
  refine ⟨fun s f rest hq hop => ?_, fun s f rest hq hop hlen => ?_,
    fun s f rest hq hop hlarge => ?_⟩
  · exact step_of_decode_error hq (decode_of_op_not_assigned hop)
  · exact step_of_decode_error hq
      (decode_of_byte_operand_error hop (decodeByteOperand_of_length_ne_one hlen))
  · refine step_of_decode_error hq ?_
    obtain ⟨hbyte, hlen⟩ | henc := hop
    · obtain ⟨e, he⟩ := List.length_eq_one_iff.1 hlen
      have hlarge' : 256 ≤ e.toNat := by simpa [he] using hlarge
      exact decode_of_byte_operand_error hbyte (he ▸ decodeByteOperand_of_large hlarge')
    · simp [decode, opOfWord, henc, bytesOfElems_eq_none hlarge]

/-- Settles O20: every value below 4 selects an operation, and the decoder is run on the frames. -/
theorem opcodeWordsDecode : Obligations.OpcodeWordsDecode := by
  refine ⟨fun w hw => ?_, rfl, rfl, rfl, rfl, rfl, rfl, rfl, rfl, rfl⟩
  rw [← Option.isSome_iff_exists, Option.isSome_iff_ne_none, ne_eq, opOfWord_eq_none_iff]
  omega

end Sys2Proof.Machine

namespace Sys2Proof.Machine

/-! SUPPORT. What a step that answers a next state has done, and what a run does. -/

/-- A step that answers a next state was idle, or took the oldest frame, an admitted command, and
returned its reply. -/
theorem step_eq_next {s t : State} (h : step s = .next t) :
    (s.queue = [] ∧ t = s) ∨
    ∃ f rest i, s.queue = f :: rest ∧ decode f = .ok i ∧ i.wf s.params = true ∧
      t = { s with queue := rest }.respond (reply i) := by
  cases hq : s.queue with
  | nil =>
    rw [step_of_queue_nil hq] at h
    cases h
    exact .inl ⟨rfl, rfl⟩
  | cons f rest =>
    cases hf : decode f with
    | error e =>
      rw [step_of_decode_error hq hf] at h
      cases h
    | ok i =>
      rw [step_of_decode_ok hq hf] at h
      obtain ⟨hi, ht⟩ := exec_eq_next_iff.1 h
      exact .inr ⟨f, rest, i, rfl, hf, hi, ht⟩

/-- A safe state steps to a safe state. -/
theorem step_of_safe {s : State} (h : s.Safe) : ∃ t, step s = .next t ∧ t.Safe := by
  cases hq : s.queue with
  | nil => exact ⟨s, step_of_queue_nil hq, h⟩
  | cons f rest =>
    obtain ⟨i, hf, hi⟩ := h f (by simp [hq])
    exact ⟨_, step_of_wf hq hf hi, fun g hg => h g (by simp [hq, show g ∈ rest from hg])⟩

/-- Waiting admitted commands are all answered in their order, one in each step of a run (R66). -/
theorem run_of_queue_eq_map_encode {s : State} {cmds : List Instr}
    (hq : s.queue = cmds.map encode) (hwf : ∀ i ∈ cmds, i.wf s.params = true) :
    Host.Core.run core cmds.length s =
      .next { s with queue := [], responses := s.responses ++ cmds.map reply } := by
  induction cmds generalizing s with
  | nil =>
    have hs : s = { s with queue := [], responses := s.responses ++ [] } := by
      rw [List.append_nil, ← show s.queue = [] from hq]
    exact congrArg Host.Outcome.next hs
  | cons i cmds ih =>
    obtain ⟨hi, hcmds⟩ := List.forall_mem_cons.1 hwf
    rw [List.length_cons, run_succ_of_next (step_of_wf hq (decode_encode i) hi)]
    have hrest := ih (s := State.respond { s with queue := cmds.map encode } (reply i)) rfl hcmds
    exact hrest.trans (by simp)

/-! SUPPORT. Admission by the length bound, and the bits of a code point. -/

/-- A sequence longer than `MAX_SEQ_LEN` is not admitted (R71). -/
theorem admits_eq_false {p : Params} {m n : Nat} (hmax : p.maxSeqLen = some m) (h : m < n) :
    p.admits n = false := by
  simp [Params.admits, hmax, h]

/-- With no bound every command is admitted (R71). -/
theorem wf_of_unbounded {p : Params} (h : p.maxSeqLen = none) (i : Instr) : i.wf p = true := by
  have hadmits (n : Nat) : p.admits n = true := by simp [Params.admits, h]
  cases i with
  | permute b => rfl
  | unpermute c => rfl
  | encode S => exact hadmits S.length
  | decode T => exact hadmits T.length

/-- The sum of R102 does not overflow. -/
theorem specEnc1_toNat (b : Byte) : (specEnc1 b).toNat = 0x2800 + (perm b).toNat := by
  have hb : (perm b).toNat < 2 ^ 8 := (perm b).isLt
  simp [specEnc1]
  omega

/-- A code point of R102 lies in the block, with 0x0028 above its low byte (R64). -/
theorem specEnc1_format (b : Byte) :
    0x2800 ≤ (specEnc1 b).toNat ∧ (specEnc1 b).toNat ≤ 0x28FF ∧
    (specEnc1 b).extractLsb' 8 13 = (0x0028 : BitVec 13) ∧
    (specEnc1 b).extractLsb' 0 8 = perm b := by
  have hb : (perm b).toNat < 2 ^ 8 := (perm b).isLt
  have hsum := specEnc1_toNat b
  refine ⟨by omega, by omega, BitVec.eq_of_toNat_eq ?_, BitVec.eq_of_toNat_eq ?_⟩
  · simp [hsum, Nat.shiftRight_eq_div_pow]
    omega
  · simp [hsum]
    omega

/-! SUPPORT. The structural units (R67). -/

/-- One encoder slice per element gives ENCODE's reply. -/
theorem encodeUnit_eq_reply (impl : PermImpl) (S : List Byte) :
    encodeUnit impl S = reply (.encode S) := by
  have hslice : S.map (brailleEncoderSlice impl) = S.map specEnc1 :=
    List.map_congr_left fun b _ => enc1_eq impl b
  rw [encodeUnit, hslice, reply]

/-- The slices side by side, with their error lines ORed, answer as the streaming decoder does. -/
theorem decodeUnit_eq_streamDecode (impl : PermImpl) (T : List CodePoint) :
    decodeUnit impl T = streamDecode impl T := by
  have herr : (T.map (brailleDecoderSlice impl)).any Prod.fst = !T.all inBlock := by
    simp only [List.any_map, Function.comp_def, brailleDecoderSlice_fst, List.not_all_eq_any_not]
  simp [decodeUnit, streamDecode, herr, foldl_accept_eq, Function.comp_def]

/-! The statements of 30_encoding.md about commands, steps and runs. -/

/-- Settles O33: issuing puts the commands behind those waiting, and a run answers the queue. -/
theorem runAnswersAllInIssueOrder : Obligations.RunAnswersAllInIssueOrder := by
  intro s waiting cmds hq hwaiting hcmds
  have hissued : cmds.foldl (fun (u : State) i => u.issue (encode i)) s =
      { s with queue := (waiting ++ cmds).map encode } := by
    rw [← List.foldl_map (f := encode) (g := State.issue), foldl_issue_eq, hq, List.map_append]
  rw [hissued, ← List.length_append, run_of_queue_eq_map_encode rfl]
  · simp
  · exact List.forall_mem_append.2 ⟨hwaiting, hcmds⟩

/-- Settles O34, by induction on the number of steps: a safe state steps to a safe one. -/
theorem safeRunNeverStops : Obligations.SafeRunNeverStops := by
  intro k
  induction k with
  | zero => exact fun s hs => ⟨s, rfl, hs⟩
  | succ k ih =>
    intro s hs
    obtain ⟨u, hstep, hu⟩ := step_of_safe hs
    rw [run_succ_of_next hstep]
    exact ih u hu

/-- Settles O17: the code points are R102's, one for each byte, and each has the format of R64. -/
theorem encodePayloadFormat : Obligations.EncodePayloadFormat := by
  intro s t S h
  obtain ⟨-, rfl⟩ := exec_eq_next_iff.1 h
  refine ⟨S.map specEnc1, rfl, ?_⟩
  rw [List.forall₂_map_right_iff, List.forall₂_same]
  exact fun b _ => specEnc1_format b

/-- Settles O31: the one response is the reply to the oldest command. -/
theorem stepAnswersOldestCommand : Obligations.StepAnswersOldestCommand := by
  intro s t h
  obtain hidle | ⟨f, rest, i, hq, -, -, ht⟩ := step_eq_next h
  · exact .inl hidle
  · exact .inr ⟨f, rest, reply i, hq, ht⟩

/-- Settles O32: too long is not admitted, and with no bound everything is. -/
theorem lengthBoundRefusesByName : Obligations.LengthBoundRefusesByName := by
  refine ⟨fun s m hmax => ⟨fun S hS => ?_, fun T hT => ?_⟩, fun s i hmax => ?_⟩
  · exact exec_of_not_wf (i := .encode S) (admits_eq_false hmax hS)
  · exact exec_of_not_wf (i := .decode T) (admits_eq_false hmax hT)
  · exact ⟨_, exec_of_wf (wf_of_unbounded hmax i)⟩

/-- Settles O48: the units and the commands both give `reply`, in which no free value stands. -/
theorem structuralUnitsRealiseCommands : Obligations.StructuralUnitsRealiseCommands := by
  refine fun s impl => ⟨fun S hn => ?_, fun T hn => ?_⟩
  · rw [encodeUnit_eq_reply]
    exact exec_of_wf (i := .encode S) hn
  · rw [decodeUnit_eq_streamDecode, streamDecode_eq_reply]
    exact exec_of_wf (i := .decode T) hn

/-- Settles O50: the oldest command is the same one with the new frame behind the others. -/
theorem issueWaitsItsTurn : Obligations.IssueWaitsItsTurn := by
  intro s t f hne h
  obtain ⟨hq, -⟩ | ⟨g, rest, i, hq, hg, hi, rfl⟩ := step_eq_next h
  · exact absurd hq hne
  · have hissued : (s.issue f).queue = g :: (rest ++ [f]) := by simp [hq]
    exact step_of_wf hissued hg hi

/-- Settles O27: it is the case of a step whose oldest frame is a command. -/
theorem stepRunsDecodedCommand : Obligations.StepRunsDecodedCommand :=
  fun _ _ _ _ hq hf => step_of_decode_ok hq hf

/-- Settles O28: the placed word's frame is the oldest, and the rest is the state's own queue. -/
theorem placedWordRunsNext : Obligations.PlacedWordRunsNext := by
  intro s nbits w i h
  have hf : decode (tableFrame nbits w) = .ok i := by
    unfold decodeTableWord at h
    split at h
    · next j hj => rwa [Option.some.inj h] at hj
    · cases h
  exact step_of_decode_ok (withFetchWord_queue s nbits w) hf

end Sys2Proof.Machine

namespace Sys2Proof.Machine

/-! SUPPORT. The permutation as a map of bit positions, and the facts that follow from it. -/

/-- The bit of a byte that `PERM` puts at a position (R80's table, read from right to left). -/
def permSource : Nat → Nat
  | 0 => 7 | 1 => 6 | 2 => 5 | 3 => 3 | 4 => 2 | 5 => 1 | 6 => 4 | 7 => 0
  | k => k

/-- The bit of a byte that `UNPERM` puts at a position (R84's table, read from right to left). -/
def unpermSource : Nat → Nat
  | 0 => 7 | 1 => 5 | 2 => 4 | 3 => 3 | 4 => 6 | 5 => 2 | 6 => 1 | 7 => 0
  | k => k

/-- Each bit of `PERM(b)` is the bit of `b` that R80's table sends there. -/
theorem getLsbD_perm (b : Byte) (k : Nat) :
    (perm b).getLsbD k = b.getLsbD (permSource k) := by
  match k with
  | 0 | 1 | 2 | 3 | 4 | 5 | 6 | 7 => simp [perm, permSource]
  | k + 8 => simp [permSource]

/-- Each bit of `UNPERM(c)` is the bit of `c` that R84's table sends there. -/
theorem getLsbD_unperm (c : Byte) (k : Nat) :
    (unperm c).getLsbD k = c.getLsbD (unpermSource k) := by
  match k with
  | 0 | 1 | 2 | 3 | 4 | 5 | 6 | 7 => simp [unperm, unpermSource]
  | k + 8 => simp [unpermSource]

@[simp] theorem permSource_unpermSource (k : Nat) : permSource (unpermSource k) = k := by
  match k with
  | 0 | 1 | 2 | 3 | 4 | 5 | 6 | 7 => rfl
  | k + 8 => rfl

@[simp] theorem unpermSource_permSource (k : Nat) : unpermSource (permSource k) = k := by
  match k with
  | 0 | 1 | 2 | 3 | 4 | 5 | 6 | 7 => rfl
  | k + 8 => rfl

/-- `UNPERM` undoes `PERM` (R84). -/
@[simp] theorem unperm_perm (b : Byte) : unperm (perm b) = b :=
  BitVec.eq_of_getLsbD_eq fun k _ => by simp [getLsbD_perm, getLsbD_unperm]

/-- `PERM` undoes `UNPERM` (R87). -/
@[simp] theorem perm_unperm (c : Byte) : perm (unperm c) = c :=
  BitVec.eq_of_getLsbD_eq fun k _ => by simp [getLsbD_perm, getLsbD_unperm]

theorem perm_bijective : Function.Bijective perm :=
  Function.bijective_iff_has_inverse.2 ⟨unperm, unperm_perm, perm_unperm⟩

theorem unperm_injective : Function.Injective unperm :=
  Function.LeftInverse.injective perm_unperm

/-- `PERM` keeps the number of 1 bits (R83): its table only reorders the eight positions. -/
theorem popcount_perm (b : Byte) : popcount (perm b) = popcount b := by
  have hpositions : ((List.range 8).map permSource).Perm (List.range 8) := by decide
  simpa [popcount, getLsbD_perm, ← List.countP_eq_length_filter, List.countP_map,
    Function.comp_def] using hpositions.countP_eq b.getLsbD

/-- `UNPERM` keeps the number of 1 bits (R86). -/
theorem popcount_unperm (c : Byte) : popcount (unperm c) = popcount c := by
  simpa using (popcount_perm (unperm c)).symm

/-- The fixed points of `UNPERM` are those of `PERM` (R86). -/
theorem unperm_eq_self_iff (c : Byte) : unperm c = c ↔ perm c = c :=
  ⟨fun h => by simpa [h] using perm_unperm c, fun h => by simpa [h] using unperm_perm c⟩

/-- Each bit after `n` applications of `PERM`. -/
theorem getLsbD_perm_iterate (n : Nat) (b : Byte) (k : Nat) :
    (perm^[n] b).getLsbD k = b.getLsbD (permSource^[n] k) := by
  induction n generalizing b with
  | zero => rfl
  | succ n ih => rw [Function.iterate_succ_apply, ih, getLsbD_perm, Function.iterate_succ_apply']

/-- Ten applications of `PERM` are the identity (R83). -/
theorem perm_iterate_ten (b : Byte) : perm^[10] b = b := by
  have hpositions : ∀ k < 8, permSource^[10] k = k := by decide
  refine BitVec.eq_of_getLsbD_eq fun k hk => ?_
  rw [getLsbD_perm_iterate, hpositions k hk]

/-- Fewer than ten applications move the byte 0x03, which has one bit in the cycle of length 2 and one
in the cycle of length 5 (R83). -/
theorem perm_iterate_ne {k : Nat} (hpos : 0 < k) (hlt : k < 10) : perm^[k] 0x03 ≠ 0x03 := by
  interval_cases k <;> decide

/-- The byte whose bits in the cycles (0 7), (1 5 2 4 6) and (3) are `x`, `y` and `z`. -/
def cycleByte (x y z : Bool) : Byte := BitVec.ofBoolListLE [x, y, y, z, y, y, y, x]

/-- The bits of a fixed point of `PERM` are equal within each cycle (R83). -/
theorem eq_cycleByte_of_perm_eq {b : Byte} (h : perm b = b) :
    b = cycleByte (b.getLsbD 0) (b.getLsbD 1) (b.getLsbD 3) := by
  have hbit (k : Nat) : b.getLsbD k = b.getLsbD (permSource k) := by rw [← getLsbD_perm, h]
  have h7 : b.getLsbD 7 = b.getLsbD 0 := hbit 7
  have h5 : b.getLsbD 5 = b.getLsbD 1 := hbit 5
  have h2 : b.getLsbD 2 = b.getLsbD 1 := (hbit 2).trans h5
  have h4 : b.getLsbD 4 = b.getLsbD 1 := (hbit 4).trans h2
  have h6 : b.getLsbD 6 = b.getLsbD 1 := (hbit 6).trans h4
  refine BitVec.eq_of_getLsbD_eq fun k hk => ?_
  rw [cycleByte, BitVec.getLsbD_ofBoolListLE]
  match k with
  | 0 | 1 | 3 => rfl
  | 2 => exact h2
  | 4 => exact h4
  | 5 => exact h5
  | 6 => exact h6
  | 7 => exact h7

/-- The fixed points of `PERM` (R83): a choice of one bit for each of the three cycles. -/
theorem perm_eq_self_iff (b : Byte) :
    perm b = b ↔ b ∈ ([0x00, 0x08, 0x76, 0x7E, 0x81, 0x89, 0xF7, 0xFF] : List Byte) := by
  constructor
  · intro h
    rw [eq_cycleByte_of_perm_eq h]
    generalize b.getLsbD 0 = x, b.getLsbD 1 = y, b.getLsbD 3 = z
    revert x y z
    decide
  · revert b
    decide

/-- The forward table has an entry for each byte (R81). -/
theorem permLut_length : permLut.length = 256 := by
  simp only [permLut, permLutLo, permLutHi, List.length_append, List.length_cons, List.length_nil]

/-- The inverse table has an entry for each byte (R85). -/
theorem unpermLut_length : unpermLut.length = 256 := by
  simp only [unpermLut, unpermLutLo, unpermLutHi, List.length_append, List.length_cons,
    List.length_nil]

/-- A table of 256 entries that answers an injective function holds no value twice, and its entries
are the function's values. -/
theorem table_nodup_and_getElem? {table : List Byte} {f : Byte → Byte}
    (hlength : table.length = 256) (hf : Function.Injective f)
    (hentry : ∀ b : Byte, table.getD b.toNat 0 = f b) :
    table.Nodup ∧ ∀ b : Byte, table[b.toNat]? = some (f b) := by
  have hget (b : Byte) : table[b.toNat]? = some (f b) := by
    have hb : b.toNat < table.length := hlength ▸ b.isLt
    rw [← hentry b, List.getD_eq_getElem _ _ hb, List.getElem?_eq_getElem hb]
  refine ⟨List.nodup_iff_getElem?_ne_getElem?.2 fun i j hij hj heq => ?_, hget⟩
  have hi := hget (BitVec.ofNatLT i (by omega))
  have hj := hget (BitVec.ofNatLT j (by omega))
  simp only [BitVec.toNat_ofNatLT] at hi hj
  have hbytes := hf (Option.some.inj (hi.symm.trans (heq.trans hj)))
  have hvalues := congrArg BitVec.toNat hbytes
  rw [BitVec.toNat_ofNatLT, BitVec.toNat_ofNatLT] at hvalues
  omega

/-- Dot `dot` of a cell is raised by bit `dot` − 1 of the permuted byte (R88, log 14). -/
theorem dotRaised_enc1 (impl : PermImpl) (b : Byte) (dot : Nat) :
    dotRaised (enc1 impl b) dot = (perm b).getLsbD (dot - 1) := by
  rw [dotRaised, enc1_eq, add_sub_cancel_left, BitVec.getLsbD_setWidth,
    Bool.and_eq_right_iff_imp, decide_eq_true_iff]
  intro h
  exact (BitVec.lt_of_getLsbD h).trans (by decide)

/-! The statements of 40_permutation.md. -/

/-- Settles O7: PERMUTE is always admitted, and its reply is `PERM(b)`. -/
theorem permuteReturnsPerm : Obligations.PermuteReturnsPerm :=
  ⟨fun _ b => exec_of_wf (i := .permute b) rfl, rfl, rfl, rfl,
    fun b => ⟨getLsbD_perm b 3, popcount_perm b⟩⟩

/-- Settles O8: UNPERMUTE is always admitted, and its reply is `UNPERM(c)`. -/
theorem unpermuteReturnsUnperm : Obligations.UnpermuteReturnsUnperm :=
  ⟨fun _ c => exec_of_wf (i := .unpermute c) rfl, rfl, rfl, rfl,
    fun c => ⟨getLsbD_unperm c 3, popcount_unperm c, unperm_eq_self_iff c⟩⟩

/-- Settles O1: eight rows of the table of positions. -/
theorem permMovesBits : Obligations.PermMovesBits := by
  intro b
  simp only [getLsbD_perm, permSource, and_self]

/-- Settles O2: eight rows of the table of positions, and the inverse law. -/
theorem unpermMovesBits : Obligations.UnpermMovesBits := by
  refine ⟨fun c => ?_, unperm_perm⟩
  simp only [getLsbD_unperm, unpermSource, and_self]

/-- Settles O3: the table is one build of the unit, and `PERM` is injective. -/
theorem permTableContents : Obligations.PermTableContents :=
  ⟨permLut_length,
    table_nodup_and_getElem? permLut_length perm_bijective.injective (permUnit_eq .lut)⟩

/-- Settles O4: the table is one build of the inverse unit, and `UNPERM` is injective. -/
theorem unpermTableContents : Obligations.UnpermTableContents :=
  ⟨unpermLut_length,
    table_nodup_and_getElem? unpermLut_length unperm_injective (unpermUnit_eq .lut)⟩

/-- Settles O5: each unit is its function, however built, and the functions undo each other. -/
theorem unitsUndoEachOther : Obligations.UnitsUndoEachOther := by
  intro p q b
  simp [permUnit_eq, unpermUnit_eq]

/-- Settles O6, one lemma for each property. -/
theorem permProperties : Obligations.PermProperties :=
  ⟨perm_bijective, fun b => ⟨Nat.zero_le _, Nat.le_of_lt_succ (perm b).isLt⟩, rfl, by decide,
    perm_iterate_ten, fun _ hpos hlt => ⟨0x03, perm_iterate_ne hpos hlt⟩, perm_eq_self_iff,
    popcount_perm⟩

/-- Settles O9: the dots of a column, looked up through `PERM`, are consecutive bits of the byte. -/
theorem cellShowsBarGraph : Obligations.CellShowsBarGraph := by
  intro impl b
  simp only [columnOf, leftColumn, rightColumn, List.map, dotRaised_enc1, getLsbD_perm, permSource,
    Nat.reduceSub, and_self]

end Sys2Proof.Machine

namespace Sys2Proof.Machine

/-! SUPPORT. The block range, the offset in it, and the element codecs as each other's inverse. -/

/-- The range test on numerals (R101, R100). -/
theorem inBlock_iff (c : CodePoint) : inBlock c = true ↔ 0x2800 ≤ c.toNat ∧ c.toNat ≤ 0x28FF :=
  inBlock_eq_true_iff c

/-- Below or above the block the range test fails (R108). -/
theorem inBlock_eq_false {c : CodePoint} (h : c.toNat ≤ 0x27FF ∨ 0x2900 ≤ c.toNat) :
    inBlock c = false := by
  rw [← Bool.not_eq_true, inBlock_iff]
  omega

/-- The element encoder, table or wiring, is R102's. -/
theorem enc1_eq_specEnc1 (impl : PermImpl) (b : Byte) : enc1 impl b = specEnc1 b := enc1_eq impl b

/-- A code point of R102 lies in the block (R103). -/
theorem inBlock_specEnc1 (b : Byte) : inBlock (specEnc1 b) = true := by
  obtain ⟨hlo, hhi, -⟩ := specEnc1_format b
  exact (inBlock_iff _).2 ⟨hlo, hhi⟩

/-- In the block the subtraction of `DEC1` does not wrap (R112). -/
theorem sub_base_toNat {c : CodePoint} (h : inBlock c = true) :
    (c - base).toNat = c.toNat - 0x2800 :=
  BitVec.toNat_sub_of_le (BitVec.le_def.2 ((inBlock_iff c).1 h).1)

/-- In the block the offset is a byte (R107). -/
theorem sub_base_toNat_le {c : CodePoint} (h : inBlock c = true) : (c - base).toNat ≤ 255 := by
  have hrange := (inBlock_iff c).1 h
  rw [sub_base_toNat h]
  omega

/-- In the block the offset is the low byte (R107): the bits above it are those of `BASE`. -/
theorem sub_base_eq_low_byte {c : CodePoint} (h : inBlock c = true) :
    c - base = (c.setWidth 8).setWidth 21 := by
  have hoffset := sub_base_toNat_le h
  rw [← offset_low_byte]
  apply BitVec.eq_of_toNat_eq
  simp only [BitVec.toNat_setWidth]
  omega

/-- The low byte of R102's code point is the permuted byte. -/
theorem specEnc1_low_byte (b : Byte) : (specEnc1 b).setWidth 8 = perm b := by
  obtain ⟨-, -, -, hlow⟩ := specEnc1_format b
  rw [BitVec.setWidth_eq_extractLsb' (by decide), hlow]

/-- A code point in the block is R102's for the byte that it decodes to (R103, R107). -/
theorem specEnc1_unperm_low_byte {c : CodePoint} (h : inBlock c = true) :
    specEnc1 (unperm (c.setWidth 8)) = c :=
  calc specEnc1 (unperm (c.setWidth 8))
    _ = base + (c.setWidth 8).setWidth 21 := by rw [specEnc1, perm_unperm, base]
    _ = base + (c - base) := by rw [sub_base_eq_low_byte h]
    _ = c := add_sub_cancel base c

theorem specEnc1_injective : Function.Injective specEnc1 := fun b b' h =>
  perm_bijective.injective (by rw [← specEnc1_low_byte, h, specEnc1_low_byte])

/-! SUPPORT. Admission as a bound, and the replies of ENCODE and DECODE. -/

/-- Admitted is no longer than `MAX_SEQ_LEN`, where there is one (R71). -/
theorem admits_iff (p : Params) (n : Nat) :
    p.admits n = true ↔ ∀ m, p.maxSeqLen = some m → n ≤ m := by
  cases h : p.maxSeqLen <;> simp [Params.admits, h]

/-- The reply of DECODE when every element lies in the block (R110). -/
theorem reply_decode_of_inBlock {T : List CodePoint} (h : ∀ c ∈ T, inBlock c = true) :
    reply (.decode T) = .ok (.bytes (T.map fun c => unperm (c.setWidth 8))) :=
  if_pos (List.all_eq_true.2 h)

/-- The reply of DECODE when some element lies out of the block (R109). -/
theorem reply_decode_of_not_all {T : List CodePoint} (h : T.all inBlock = false) :
    reply (.decode T) = .err .outsideBrailleBlock :=
  if_neg (Bool.eq_false_iff.1 h)

/-- The code points that ENCODE replies with are decoded to its operand (R111). -/
theorem reply_decode_map_specEnc1 (S : List Byte) :
    reply (.decode (S.map specEnc1)) = .ok (.bytes S) := by
  rw [reply_decode_of_inBlock (List.forall_mem_map.2 fun b _ => inBlock_specEnc1 b)]
  simp [Function.comp_def, specEnc1_low_byte]

/-- The bytes that DECODE replies with, for elements in the block, are encoded to its operand (R111). -/
theorem reply_encode_map_unperm {T : List CodePoint} (h : ∀ c ∈ T, inBlock c = true) :
    reply (.encode (T.map fun c => unperm (c.setWidth 8))) = .ok (.codePoints T) := by
  have helem : T.map (fun c => specEnc1 (unperm (c.setWidth 8))) = T.map id :=
    List.map_congr_left fun c hc => specEnc1_unperm_low_byte (h c hc)
  simp [reply, Function.comp_def, helem]

/-- The reply to an admitted command is a legal response (R103, R71). -/
theorem reply_legal {i : Instr} {p : Params} (h : i.wf p = true) : (reply i).Legal p := by
  cases i with
  | permute b => trivial
  | unpermute c => trivial
  | encode S =>
    refine ⟨List.forall_mem_map.2 fun b _ => (inBlock_iff _).1 (inBlock_specEnc1 b), ?_⟩
    rwa [List.length_map]
  | decode T =>
    cases hall : T.all inBlock with
    | true =>
      rw [reply_decode_of_inBlock (List.all_eq_true.1 hall), Response.Legal, List.length_map]
      exact h
    | false =>
      rw [reply_decode_of_not_all hall]
      trivial

/-! The statements of 41_codec.md. -/

/-- Settles O19: the two replies undo each other, and a response is as long as its operand, so that the
other state admits it. -/
theorem codecRoundTrips : Obligations.CodecRoundTrips := by
  refine ⟨fun s s' S hs hs' => ⟨S.map specEnc1, exec_of_wf (i := .encode S) hs, ?_⟩,
    fun s s' T hs hs' hT => ⟨T.map fun c => unperm (c.setWidth 8), ?_, ?_⟩⟩
  · rw [← reply_decode_map_specEnc1]
    exact exec_of_wf (i := .decode _) (by rwa [Instr.wf, List.length_map])
  · rw [← reply_decode_of_inBlock hT]
    exact exec_of_wf (i := .decode T) hs
  · rw [← reply_encode_map_unperm hT]
    exact exec_of_wf (i := .encode _) (by rwa [Instr.wf, List.length_map])

/-- Settles O35: a step records at most the reply to an admitted command, which is legal. -/
theorem stepKeepsLegalResponses : Obligations.StepKeepsLegalResponses := by
  intro s t hs h
  obtain ⟨-, rfl⟩ | ⟨f, rest, i, -, -, hi, rfl⟩ := step_eq_next h
  · exact hs
  · exact List.forall_mem_append.2 ⟨hs, List.forall_mem_singleton.2 (reply_legal hi)⟩

/-- Settles O11: a code point is that of the byte it decodes to, and its low byte fixes that byte. -/
theorem encoderIsBijectionOntoBlock : Obligations.EncoderIsBijectionOntoBlock := by
  intro impl
  rw [funext (enc1_eq_specEnc1 impl)]
  exact ⟨inBlock_specEnc1, specEnc1_injective, fun c hc => ⟨_, specEnc1_unperm_low_byte hc⟩⟩

/-- Settles O13: the low byte of a code point of R102 is the permuted byte, which `UNPERM` undoes. -/
theorem decoderInvertsEncoder : Obligations.DecoderInvertsEncoder := by
  refine fun p q => ⟨fun c hc =>
    ⟨sub_base_toNat_le hc, sub_base_eq_low_byte hc, _, dec1_of_inBlock p hc⟩, fun b => ?_⟩
  rw [enc1_eq_specEnc1, dec1_of_inBlock p (inBlock_specEnc1 b), specEnc1_low_byte, unperm_perm]

/-- Settles O14: the range test fails on the whole value, before its low byte is taken. -/
theorem outOfBlockNeverWraps : Obligations.OutOfBlockNeverWraps := by
  intro c hc
  have hout := inBlock_eq_false hc
  refine ⟨fun impl => dec1_of_not_inBlock impl hout, fun s hs => ?_⟩
  rw [← reply_decode_of_not_all (T := [c]) (by simp [hout])]
  exact exec_of_wf (i := .decode [c]) hs

/-- Settles O15: within the bound ENCODE is admitted and gives its reply, beyond it ENCODE is refused. -/
theorem encodeReturnsCodePoints : Obligations.EncodeReturnsCodePoints :=
  ⟨fun s S h => exec_of_wf (i := .encode S) ((admits_iff s.params S.length).2 h),
    fun _ S _ hmax hlong => exec_of_not_wf (i := .encode S) (admits_eq_false hmax hlong)⟩

/-- Settles O16: the range as numbers is the block test, and the low byte of the offset is that of the
code point. -/
theorem decodeReturnsBytesOrError : Obligations.DecodeReturnsBytesOrError := by
  intro s T h
  have hrange (c : CodePoint) : decide (0x2800 ≤ c.toNat ∧ c.toNat ≤ 0x28FF) = inBlock c := by
    rw [Bool.eq_iff_iff, decide_eq_true_iff, inBlock_iff]
  have hlow (c : CodePoint) : (c - 0x2800).setWidth 8 = c.setWidth 8 := offset_low_byte c
  simp only [hrange, hlow]
  exact exec_of_wf (i := .decode T) ((admits_iff s.params T.length).2 h)

/-- Settles O18: each response is the map of R102's encoder, read at a place. -/
theorem encodeIsElementwise : Obligations.EncodeIsElementwise := by
  refine ⟨fun s => exec_of_wf (i := .encode []) ((admits_iff s.params 0).2 fun m _ => m.zero_le),
    fun s s' t t' S S' h h' => ?_⟩
  obtain ⟨-, rfl⟩ := exec_eq_next_iff.1 h
  obtain ⟨-, rfl⟩ := exec_eq_next_iff.1 h'
  refine ⟨S.map specEnc1, S'.map specEnc1, rfl, rfl, List.length_map _, fun i => List.getElem?_map,
    fun i hi => ?_⟩
  rw [List.getElem?_map, List.getElem?_map, hi]

/-- Settles O10: both bounds compare the whole value. -/
theorem inBlockIsClosedRange : Obligations.InBlockIsClosedRange := inBlock_iff

/-- Settles O12: the permuted byte fits above `BASE`, and a value in the block is not below it. -/
theorem arithmeticNeverOverflows : Obligations.ArithmeticNeverOverflows := by
  refine ⟨fun impl b => ?_, fun c hc =>
    ⟨sub_base_toNat hc, ((inBlock_iff c).1 hc).1, sub_base_toNat_le hc⟩⟩
  obtain ⟨hlo, hhi, -⟩ := specEnc1_format b
  rw [enc1_eq_specEnc1]
  exact ⟨specEnc1_toNat b, hlo, hhi⟩

end Sys2Proof.Machine

namespace Sys2Proof.Machine

/-! SUPPORT. Which reply is the one error. -/

/-- The range test fails exactly on the values out of the block (R101, R108). -/
theorem inBlock_eq_false_iff (c : CodePoint) :
    inBlock c = false ↔ ¬(0x2800 ≤ c.toNat ∧ c.toNat ≤ 0x28FF) := by
  rw [← Bool.not_eq_true, inBlock_iff]

/-- The error is the reply to a DECODE with an element out of the block, and to nothing else
(R130, R109). -/
theorem reply_eq_err_iff {i : Instr} :
    reply i = .err .outsideBrailleBlock ↔ ∃ T, i = .decode T ∧ ∃ c ∈ T, inBlock c = false := by
  cases i with
  | permute b => simp [reply]
  | unpermute c => simp [reply]
  | encode S => simp [reply]
  | decode T => simp [reply]

/-- A DECODE with an element out of the block replies with the error, wherever it stands (R133). -/
theorem reply_decode_of_exists {T : List CodePoint} (h : ∃ c ∈ T, inBlock c = false) :
    reply (.decode T) = .err .outsideBrailleBlock :=
  reply_eq_err_iff.2 ⟨T, rfl, h⟩

/-- An admitted DECODE with an element out of the block completes with the one error (R131, R133). -/
theorem exec_decode_of_exists {s : State} {T : List CodePoint}
    (hn : s.params.admits T.length = true) (h : ∃ c ∈ T, inBlock c = false) :
    exec (.decode T) s = .next (s.respond (.err .outsideBrailleBlock)) := by
  rw [← reply_decode_of_exists h]
  exact exec_of_wf (i := .decode T) hn

/-! The statements of 60_exceptions.md. -/

/-- Settles O43: the response added is the reply, and the error is the reply to such a DECODE alone. -/
theorem onlyOutOfBlockDecodeErrs : Obligations.OnlyOutOfBlockDecodeErrs := by
  intro i s t h
  obtain ⟨-, rfl⟩ := exec_eq_next_iff.1 h
  simp only [respond_responses, List.append_cancel_left_eq, List.cons.injEq, and_true,
    reply_eq_err_iff, inBlock_eq_false_iff]

/-- Settles O44: the reply carries a payload, or it is the error, which only a DECODE gets. -/
theorem statusOfResponse : Obligations.StatusOfResponse := by
  intro i s t h
  obtain ⟨-, rfl⟩ := exec_eq_next_iff.1 h
  refine ⟨reply i, rfl, ?_⟩
  cases hr : reply i with
  | ok p => exact .inl ⟨rfl, p, rfl⟩
  | err e =>
    cases e
    obtain ⟨T, hT, -⟩ := reply_eq_err_iff.1 hr
    exact .inr ⟨rfl, rfl, rfl, T, hT⟩

/-- Settles O45: either DECODE completes with the one error, in which no element stands. -/
theorem badElementNotIdentified : Obligations.BadElementNotIdentified := by
  intro s T T' hT hT' hbad hbad'
  exact ⟨exec_decode_of_exists hT hbad,
    (exec_decode_of_exists hT' hbad').trans (exec_decode_of_exists hT hbad).symm⟩

/-- Settles O46: a run answers both commands with their replies, and the first reply is the error. -/
theorem errorAffectsNoLaterCommand : Obligations.ErrorAffectsNoLaterCommand := by
  intro s T i hT hbad hi
  have hwf : ∀ j ∈ [.decode T, i], j.wf s.params = true :=
    List.forall_mem_cons.2 ⟨hT, List.forall_mem_singleton.2 hi⟩
  refine ⟨reply i, exec_of_wf hi, ?_⟩
  rw [← reply_decode_of_exists hbad]
  exact run_of_queue_eq_map_encode (cmds := [.decode T, i]) rfl hwf

end Sys2Proof.Machine

namespace Sys2Proof.Machine

/-! SUPPORT. Runs of an idle block, and what holds with nothing outstanding or nothing returned. -/

/-- A run of an idle block, of any length, changes nothing (log 6). -/
theorem run_of_queue_nil {s : State} (h : s.queue = []) (k : Nat) :
    Host.Core.run core k s = .next s := by
  induction k with
  | zero => rfl
  | succ k ih => exact (run_succ_of_next (step_of_queue_nil h) k).trans ih

theorem safe_of_queue_nil {s : State} (h : s.queue = []) : s.Safe := by
  simp [State.Safe, h]

theorem inv_of_responses_nil {s : State} (h : s.responses = []) : s.Inv := by
  simp [State.Inv, h]

/-- An admitted command at the head of the queue, as the host presents it, is answered by its reply,
whatever waits behind it (R66). -/
theorem step_of_queue_eq_encode {s : State} {i : Instr} {rest : List Frame}
    (hq : s.queue = encode i :: rest) (h : i.wf s.params = true) :
    step s = .next { s with queue := rest, responses := s.responses ++ [reply i] } :=
  step_of_wf hq (decode_encode i) h

/-! The statements of 70_reset_and_hazards.md. -/

/-- Settles O38: a reset leaves the queue empty and the responses as they are, and the block then runs
idle. -/
theorem resetAbandonsCommands : Obligations.ResetAbandonsCommands := fun k s =>
  ⟨run_of_queue_nil (assertReset_queue s) k, assertReset_responses s⟩

/-- Settles O39: after a reset the issued command is the whole queue, and wherever it is the oldest its
response is `reply`, which reads no state. -/
theorem responseSameAfterReset : Obligations.ResponseSameAfterReset := by
  intro s i hi
  have hqueue : (s.assertReset.issue (encode i)).queue = [encode i] := by
    rw [issue_queue, assertReset_queue, List.nil_append]
  exact ⟨reply i, step_of_queue_eq_encode hqueue hi, fun _ => step_of_queue_eq_encode rfl hi⟩

/-- Settles O37: the fields of the reset state, with the default parameters. -/
theorem resetIsIdle : Obligations.ResetIsIdle := ⟨rfl, rfl, rfl⟩

/-- Settles O29: it is the idle case of a step. -/
theorem idleStepChangesNothing : Obligations.IdleStepChangesNothing := fun _ => step_of_queue_nil

/-- Settles O36: after reset no response is recorded (log 2) and no command is outstanding. -/
theorem resetMeetsInvariant : Obligations.ResetMeetsInvariant := by
  obtain ⟨hqueue, hresponses, -⟩ := resetIsIdle
  exact ⟨inv_of_responses_nil hresponses, safe_of_queue_nil hqueue⟩

end Sys2Proof.Machine

namespace Sys2Proof.Machine

/-! The round trip of 30_encoding.md from the side of the command (frame layout: logs 3, 4 and 5). -/

/-- Settles O21: a frame decodes to a command exactly when the encoder writes it for that command
(`decode_eq_ok_iff`, case by case over the operations), and `encode i` is that frame. -/
theorem decodeEncodeRoundTrip : Obligations.DecodeEncodeRoundTrip := decode_encode

end Sys2Proof.Machine
